-- ==== Sys2Proof/Word.lean ====
section
/-! DEFINITION. The word types of the TCE (00_scope.md R11, R13; 20_memory.md R70) and the two
saturations of R11. Nothing here depends on the machine. -/

namespace Sys2Proof

/-- A 32-bit host register, command word or unsigned accumulator (10_state.md R21, R30, R35). -/
abbrev Word := BitVec 32

/-- One byte of `BSBUF` (20_memory.md R70). -/
abbrev Byte := BitVec 8

/-- `int16`: 16 bits read as two's complement (00_scope.md R11). -/
abbrev I16 := BitVec 16

/-- `int32`: 32 bits read as two's complement (00_scope.md R11). -/
abbrev I32 := BitVec 32

/-- A value of the float type `F` of the `FLOAT` backend (42_transform.md R215): 32 bits whose
meaning is `Config.fKind` (Machine/Numerics.lean). DEDUCED, log entry 5. -/
abbrev FVal := BitVec 32

/-- `sat16` of 00_scope.md R11. -/
def sat16 (x : Int) : Int := max (-32768) (min 32767 x)

/-- `sat32` of 00_scope.md R11. -/
def sat32 (x : Int) : Int := max (-2147483648) (min 2147483647 x)

/-- `max(a, min(b, x))`, the clamp of 44_region_power.md R287. -/
def clampInt (x a b : Int) : Int := max a (min b x)

end Sys2Proof
end

