-- ==== Sys2Proof/Syntax.lean ====
section
/-! DEFINITION. The instructions of the TCE: the six host commands (30_encoding.md R102) and the
29 micro-operations of the sequencer (R104). One constructor for each row of spec/opcode_table.json. -/

namespace Sys2Proof

/-- `SIDE` of a command word (R101): the encoder context `E` or the decoder context `D`. -/
inductive Side where
  | enc
  | dec
deriving DecidableEq, Repr, Inhabited

/-- The bandwidth mode of a context (10_state.md R27): 0 is `NB`, 1 is `WB`. -/
inductive Mode where
  | nb
  | wb
deriving DecidableEq, Repr, Inhabited

/-- A command carries the `SIDE` bit of its word; its operands are in `ARG0`, `ARG1` (R100, R103).
A micro-operation carries nothing: its operands are machine state (10_state.md R33, R36). -/
inductive Instr where
  /- host commands, format CMDW -/
  | init (side : Side)
  | setRate (side : Side)
  | encode (side : Side)
  | decode (side : Side)
  | fillIn (side : Side)
  | release (side : Side)
  /- sequencer uops -/
  | idle
  | cmdCheck
  | loadPcm
  | storePcm
  /- bitstream uops -/
  | bsPut
  | bsGet
  | bsFlush
  | bsWinit
  | bsRinit
  /- transform uops -/
  | dct4Fwd
  | dct4Inv
  /- window uops -/
  | winAna
  | headroom
  | winSyn
  /- region power uops -/
  | pwrEst
  | pwrAdj
  | pwrEnc
  | pwrDec
  | sdShift
  /- categorization uops -/
  | categorize
  | catReplay
  | rateAdj
  /- vector quantizer uops -/
  | vqEnc
  | vqDec
  | noiseFill
  | rand
  /- frame uops -/
  | pack
  | frameCheck
  | conceal
deriving DecidableEq, Repr, Inhabited

/-- Is the instruction a host command (format CMDW of R101)? -/
def Instr.isCommand : Instr → Bool
  | .init _ | .setRate _ | .encode _ | .decode _ | .fillIn _ | .release _ => true
  | .idle | .cmdCheck | .loadPcm | .storePcm | .bsPut | .bsGet | .bsFlush | .bsWinit | .bsRinit
  | .dct4Fwd | .dct4Inv | .winAna | .headroom | .winSyn | .pwrEst | .pwrAdj | .pwrEnc | .pwrDec
  | .sdShift | .categorize | .catReplay | .rateAdj | .vqEnc | .vqDec | .noiseFill | .rand | .pack
  | .frameCheck | .conceal => false

end Sys2Proof
end

