-- ==== Sys2Proof/Config.lean ====
section
/-! DEFINITION. What a build of the TCE fixes (00_scope.md R10, 10_state.md R40 to R56), as plain data,
and the values and operations that no source gives, as constants with no body. -/

namespace Sys2Proof

/-- The numeric backend; "a build selects one" (00_scope.md R3). -/
inductive Backend where
  | fixed
  | float
deriving DecidableEq, Repr, Inhabited

/-- `PCM_BYTE_ORDER` (20_memory.md R73). -/
inductive ByteOrder where
  | little
  | big
deriving DecidableEq, Repr, Inhabited

/-! The fixed parameters of 00_scope.md R6, R8 and R9. -/

/-- `REGION_SIZE` (R6). -/
def regionSize : Nat := 20

/-- `NREG(m)` (R6). -/
def Mode.nreg : Mode → Nat
  | .nb => 14
  | .wb => 28

/-- `BLK(m)` (R6). -/
def Mode.blk : Mode → Nat
  | .nb => 320
  | .wb => 640

/-- `LOG(m)` (R9). -/
def Mode.log : Mode → Nat
  | .nb => 6
  | .wb => 7

/-- `CCBITS(m)` (R9). -/
def Mode.ccbits : Mode → Nat
  | .nb => 4
  | .wb => 5

/-- `NPOSS(m) = 2^CCBITS(m)` (R9). -/
def Mode.nposs (m : Mode) : Nat := 2 ^ m.ccbits

/-- `THRESH(m) = BLK(m)` (R9). -/
def Mode.thresh (m : Mode) : Nat := m.blk

/-- `NV = 20 * NREG`, the number of coded coefficients (R17). -/
def Mode.nv (m : Mode) : Nat := regionSize * m.nreg

/-- `BPF = RATE / 50` (R8). -/
def bpf (rate : Nat) : Nat := rate / 50

/-- `BYPF = BPF / 8` (R8). -/
def bypf (rate : Nat) : Nat := bpf rate / 8

/-- `ESF_ADJ` (R6). -/
def esfAdj : Int := 9

/-- `DRP_MIN` (R9). -/
def drpMin : Int := -12

/-- `DRP_MAX` (R9). -/
def drpMax : Int := 11

/-- `NUM_NEG` (R9). -/
def numNeg : Int := 24

/-- The legal bit rates (30_encoding.md R103): 16000 to 48000 in steps of 800. -/
def legalRate (r : Nat) : Bool := 16000 ≤ r && r ≤ 48000 && r % 800 == 0

/-- A node of a decode tree (10_state.md R50): the two entries `T[n][0]`, `T[n][1]`; a positive entry
is the next node, an entry at or below 0 is a leaf whose symbol is its negation. -/
structure TreeNode where
  zero : Int
  one  : Int
deriving DecidableEq, Repr, Inhabited

/-- The tables that both backends have, with entries of the backend's element type
(`int16` in `FIXED`, `F` in `FLOAT`). -/
structure NumTables (α : Type) where
  /-- `WIN_ANA[NB]` (R41) -/
  winAnaNb : Vector α 320
  /-- `WIN_ANA[WB]` (R41) -/
  winAnaWb : Vector α 640
  /-- `WIN_SYN[NB]` (R41) -/
  winSynNb : Vector α 320
  /-- `WIN_SYN[WB]` (R41) -/
  winSynWb : Vector α 640
  /-- `CORE_FWD[NB]`, first index the input position, second the output position (R42) -/
  coreFwdNb : Vector (Vector α 10) 10
  /-- `CORE_FWD[WB]` (R42) -/
  coreFwdWb : Vector (Vector α 10) 10
  /-- `CORE_INV[NB]` (R42) -/
  coreInvNb : Vector (Vector α 10) 10
  /-- `CORE_INV[WB]` (R42) -/
  coreInvWb : Vector (Vector α 10) 10
  /-- `COSMSIN[span]`, pairs (cos, -sin) (R43) -/
  cs20  : Vector (α × α) 10
  cs40  : Vector (α × α) 20
  cs80  : Vector (α × α) 40
  cs160 : Vector (α × α) 80
  cs320 : Vector (α × α) 160
  cs640 : Vector (α × α) 320
  /-- `SD[0..63]` (R46) -/
  sd : Vector α 64
  /-- `SD_INV[0..63]` (R46) -/
  sdInv : Vector α 64
  /-- `STEP_INV[0..7]` (R49) -/
  stepInv : Vector α 8
  /-- `CENTROID[c][0..KMAX[c]]`; `KMAX[c] <= 13` (R48, R49) -/
  centroid : Vector (Vector α 14) 8
  /-- `NOISE[0..2]` (R49) -/
  noise : Vector α 3
deriving DecidableEq, Repr, Inhabited

/-- The tables of the `FIXED` backend only. -/
structure FixedTables where
  /-- `DITHER[NB]` (R44) -/
  ditherNb : Vector I16 320
  /-- `DITHER[WB]` (R44) -/
  ditherWb : Vector I16 640
  /-- `SYN_BIAS` (R44) -/
  synBias : Vector I16 320
  /-- `DZ[0..7]`, integers Q17 (R49) -/
  dz : Vector Nat 8
  /-- `SYN_POSTSHIFT` (R54) -/
  synPostshift : I16
  /-- `HR_FULL` (R54) -/
  hrFull : I16
  hrSmall : I16
  hrMul : I16
  hrShr : I16
  hrZero : I16
  hrBias : I16
  hrAvgShr : I16
deriving DecidableEq, Repr, Inhabited

/-- The tables of the `FLOAT` backend only. -/
structure FloatTables where
  /-- `PWR_BOUND[0..62]` (R45) -/
  pwrBound : Vector FVal 63
  /-- `DZ[0..7]` as `F` values (R49) -/
  dz : Vector FVal 8
  /-- `K_FWD[NB]`, `K_FWD[WB]`, `K_INV[NB]`, `K_INV[WB]` (R54) -/
  kFwdNb : FVal
  kFwdWb : FVal
  kInvNb : FVal
  kInvWb : FVal
deriving DecidableEq, Repr, Inhabited

/-- `ROM`, the record of constant tables (10_state.md R40). The contents are open; what a conforming
ROM satisfies is `romWf` (Machine/RomConditions.lean). -/
structure Rom where
  /-- the tables of element type `int16` -/
  i16 : NumTables I16
  /-- the tables of element type `F` -/
  flt : NumTables FVal
  fixedOnly : FixedTables
  floatOnly : FloatTables
  /-- `EXPBITS[0..7]` (R47) -/
  expbits : Vector Nat 8
  /-- `VDIM[0..7]` (R48) -/
  vdim : Vector Nat 8
  /-- `NVEC[0..7]` (R48) -/
  nvec : Vector Nat 8
  /-- `KMAX[0..7]` (R48) -/
  kmax : Vector Nat 8
  /-- `KINV[0..7]` (R48) -/
  kinv : Vector Nat 8
  /-- `DRP_LEN[r][j]`; row 0 is not used (R50) -/
  drpLen : Vector (Vector Nat 24) 28
  /-- `DRP_CODE[r][j]`; row 0 is not used (R50) -/
  drpCode : Vector (Vector Nat 24) 28
  /-- `DRP_TREE[r][n]`; row 0 is not used (R50) -/
  drpTree : Vector (Vector TreeNode 23) 28
  /-- `VQ_LEN[c][i]` (R51) -/
  vqLen : Vector (List Nat) 7
  /-- `VQ_CODE[c][i]` (R51) -/
  vqCode : Vector (List Nat) 7
  /-- `VQ_TREE[c][n]` (R51) -/
  vqTree : Vector (List TreeNode) 7
deriving DecidableEq, Repr, Inhabited

/-- The parameters of the step relation that are plain data (10_state.md R56): fixed for the life of
a machine, open in the spec. -/
structure Build where
  backend : Backend
  rom : Rom
  /-- `PRNG_SEED`, four 16-bit words (R58) -/
  prngSeed : Vector (BitVec 16) 4
  /-- `MAXFRAMES - 1`: `MAXFRAMES` is an integer of at least 1 (00_scope.md R9) -/
  framesBeyondOne : Nat
  /-- `NORM_ZERO`, the sentinel of the normalization helpers (40_basic_ops.md R159) -/
  normZero : I16
  /-- the word number of `TCE_BASE`, which is word-aligned (R21; 92_eei_decisions.md section 2). DESIGN
  CHOICE: the spec gives the host's address space no width, here it is 32 bits (log entry 28) -/
  tceBaseWord : BitVec 30
  /-- `PCM_BYTE_ORDER` (20_memory.md R73) -/
  pcmByteOrder : ByteOrder
deriving DecidableEq, Repr, Inhabited

/-- `MAXFRAMES`, the buffer capacity in frames (00_scope.md R9). -/
def Build.maxFrames (b : Build) : Nat := b.framesBeyondOne + 1

/-- `TCE_BASE`, the platform's base address of the register block (10_state.md R21): word-aligned, in a
32-bit address space (DESIGN CHOICE, log entry 28). -/
def Build.tceBase (b : Build) : Word := b.tceBaseWord ++ 0#2

/-- What a value of the float type `F` stands for (42_transform.md R215: "a record with a carrier type",
with infinities and NaNs in some instances): a number, an infinity with its sign, or no number. -/
inductive FKind where
  | number (x : ℚ)
  | infinity (negative : Bool)
  | nan
deriving DecidableEq, Repr, Inhabited

namespace Config

/-- The build of this machine: every open parameter at once, uninterpreted (92_eei_decisions.md
section 2). Log entry 4. -/
opaque build : Build

/-! The number type `F` of the `FLOAT` backend (42_transform.md R215): its constants and its rounding are
uninterpreted. What the spec states of the operations, on zeros and by the order, `floorF` and `rint`, is in
Machine/Numerics.lean, which takes these for the rest. Log entry 5. -/

/-- `toF(i)` for an integer `i`. -/
opaque fOfInt : Int → FVal

/-- `toF(x)` for a real number, used only to say what the `FLOAT` tables hold (10_state.md R42, R43). -/
opaque fOfReal : ℝ → FVal

/-- What an `F` value other than `toF(0)` stands for. -/
opaque fKindOther : FVal → FKind

/-- `+_F`, but for a zero operand. -/
opaque fAddRounded : FVal → FVal → FVal

/-- `-_F`, but for a zero operand. -/
opaque fSubRounded : FVal → FVal → FVal

/-- `*_F`, but for a zero operand. -/
opaque fMulRounded : FVal → FVal → FVal

/-- `/_F`, but for a zero operand. -/
opaque fDivRounded : FVal → FVal → FVal

/-- `F` negation (46_vector_quantizer.md R332), but for a zero. -/
opaque fNegOther : FVal → FVal

/-- the `F` absolute value (46_vector_quantizer.md R327), but for a zero. -/
opaque fAbsOther : FVal → FVal

/-- `<_F` where an operand is a NaN: R215 states no result, a free value. -/
opaque fLtNan : FVal → FVal → Bool

/-- The equality test where an operand is a NaN: a free value. -/
opaque fEqNan : FVal → FVal → Bool

/-- `floorF` of an infinity or a NaN: R215 states no result, a free value. -/
opaque fFloorOther : FVal → Int

/-- `rint` of a value that is no number: "any value" (47_frame_commands.md R379, item I9 of
93_implementation_defined.md). -/
opaque fRintOther : FVal → Int

end Config

end Sys2Proof
end

