-- ==== Sys2Proof/Machine/State.lean ====
section
/-! DEFINITION. The machine's state (10_state.md R20 to R39, R57 to R59), as plain data, with the
reasons a step can stop and the state right after reset. -/

namespace Sys2Proof.Machine

/-- `STATUS.CMDERR`, the result code of the most recent command (10_state.md R24); the numeric codes
are in Flags.lean. -/
inductive CmdErr where
  | ok
  | cfgErr
  | noCtx
  | illCmd
  | bufErr
deriving DecidableEq, Repr, Inhabited

/-- A signal register of `n` elements: `int16` elements in a `FIXED` build, `F` elements in a `FLOAT`
build (10_state.md R38). A build has one of the two faces; the other is not there, and no rule of
that build reads it (log entry 6). -/
structure SigReg (n : Nat) where
  fx : Vector I16 n
  fl : Vector FVal n
deriving DecidableEq, Repr, Inhabited

/-- `E.BW`, the bitstream write cursor (10_state.md R30). -/
structure BitWriter where
  /-- `ACC`, the 32-bit accumulator -/
  acc : Word
  /-- `RES`, the pending-bit count, 0..7 between operations -/
  res : Nat
  /-- `PTR`, index into `BSBUF` of the next byte to write -/
  ptr : Nat
deriving DecidableEq, Repr, Inhabited

/-- `D.BR`, the bitstream read cursor (10_state.md R35). -/
structure BitReader where
  /-- `ACC`, the 32-bit accumulator -/
  acc : Word
  /-- `RES`, the count of unread bits held in `ACC`, 0..31 -/
  res : Nat
  /-- `PTR`, index into `BSBUF` of the next byte to fetch -/
  ptr : Nat
  /-- `REM`, bits of the current frame not yet consumed; -1 after an underrun -/
  rem : Int
deriving DecidableEq, Repr, Inhabited

/-- The encoder context `E` (10_state.md R27, R29, R30). -/
structure Encoder where
  /-- `E.VALID` -/
  valid : Bool
  /-- `E.MODE` -/
  mode : Mode
  /-- `E.RATE`, bit/s -/
  rate : BitVec 16
  /-- `E.HIST[0..639]` -/
  hist : SigReg 640
  /-- `E.BW` -/
  bw : BitWriter
deriving DecidableEq, Repr, Inhabited

/-- The decoder context `D` (10_state.md R28, R31, R32, R34, R35). -/
structure Decoder where
  /-- `D.VALID` -/
  valid : Bool
  /-- `D.MODE` -/
  mode : Mode
  /-- `D.RATE`, bit/s -/
  rate : BitVec 16
  /-- `D.OLDCOEF[0..639]` -/
  oldcoef : SigReg 640
  /-- `D.OLDSHIFT` -/
  oldshift : I16
  /-- `D.OLDSAMP[0..319]` -/
  oldsamp : SigReg 320
  /-- `D.RAND[0..3]` -/
  rand : Vector (BitVec 16) 4
  /-- `D.BR` -/
  br : BitReader
deriving DecidableEq, Repr, Inhabited

/-- The frame working registers `W` and the two flag registers (10_state.md R36, R37). Bit strings
are lists of bits, first sent bit first. -/
structure WorkRegs where
  /-- `W.PCM[0..639]` -/
  pcm : Vector I16 640
  /-- `W.U[0..639]` -/
  u : SigReg 640
  /-- `W.X[0..639]` -/
  x : SigReg 640
  /-- `W.COEF[0..639]` -/
  coef : SigReg 640
  /-- `W.NEWS[0..639]` -/
  news : SigReg 640
  /-- `W.OUT[0..639]` -/
  out : SigReg 640
  /-- `W.MAGSH` -/
  magsh : I16
  /-- `W.ABS[0..27]` -/
  abs : Vector I16 28
  /-- `W.SYM[0..27]` -/
  sym : Vector (Fin 32) 28
  /-- `W.ENV` -/
  env : List Bool
  /-- `W.ENVBITS` -/
  envbits : Nat
  /-- `W.SD[0..27]` -/
  sd : SigReg 28
  /-- `W.AVAIL` -/
  avail : Int
  /-- `W.OFFSET` -/
  offset : Int
  /-- `W.CAT0[0..27]` -/
  cat0 : Vector (Fin 8) 28
  /-- `W.CAT[0..27]` -/
  cat : Vector (Fin 8) 28
  /-- `W.BAL[0..30]` -/
  bal : Vector (Fin 28) 31
  /-- `W.CATCTL` -/
  catctl : Fin 32
  /-- `W.IDXQ[0..27]` -/
  idxq : Vector (Fin 64) 28
  /-- `W.RBITS[0..27]` -/
  rbits : Vector (List Bool) 28
  /-- `W.FRAMEBITS` -/
  framebits : List Bool
  /-- `W.RANDSNAP[0..3]` -/
  randsnap : Vector (BitVec 16) 4
  /-- `W.UNDERRUN` -/
  underrun : Bool
  /-- `W.FERR`: bit 0 `PAD`, bit 1 `OVERRUN`, bit 2 `RANGE`, bit 3 `ERASED` -/
  ferr : BitVec 4
deriving DecidableEq, Repr, Inhabited

/-- The sequencer registers `SEQ` (10_state.md R33) and the three accumulators of the frame-error
record (60_exceptions.md R411; log entry 19). -/
structure SeqRegs where
  /-- `SEQ.CMD` -/
  cmd : Word
  /-- `SEQ.NFRAMES` -/
  nframes : Nat
  /-- `SEQ.FRAME` -/
  frame : Nat
  /-- `SEQ.PHASE` -/
  phase : Byte
  /-- `SEQ.REGION` -/
  region : Fin 28
  /-- `last` of R411 -/
  last : BitVec 4
  /-- `or` of R411 -/
  orf : BitVec 4
  /-- `nconc` of R411 -/
  nconc : BitVec 16
deriving DecidableEq, Repr, Inhabited

/-- Where a called micro-operation finds the operands its caller gives it and leaves the value it
returns (`BS_PUT(value, nbits)`, `BS_GET(nbits)`, `RAND()`). The MODEL's own (log entry 9). -/
structure UopPort where
  value : Word
  nbits : Nat
  result : Word
deriving DecidableEq, Repr, Inhabited

/-- One access of the host (20_memory.md R70, R76): to the register block by byte offset from
`TCE_BASE` and width in bits, to `PCMBUF` by sample index, to `BSBUF` by byte index. -/
inductive HostAccess where
  | regRead (offset width : Nat)
  | regWrite (offset width : Nat) (value : Word)
  | pcmRead (index : Nat)
  | pcmWrite (index : Nat) (value : BitVec 16)
  | bsRead (index : Nat)
  | bsWrite (index : Nat) (value : Byte)
deriving DecidableEq, Repr, Inhabited

/-- The host's side of the interface. The MODEL's own (log entry 7): the accesses still to come, in the
host's program order (R82); the value the last read gave the host; the word of the `CMD` write being
run, the operand `c` of `CMD_CHECK` (47_frame_commands.md R360). -/
structure HostPort where
  pending : List HostAccess
  readData : Word
  cmdWord : Word
deriving DecidableEq, Repr, Inhabited

/-- A memory of `w`-bit cells: pairs of an address and a value, addresses strictly rising; an address
that is not listed has not been written (20_memory.md R70; log entry 3). -/
abbrev Memory (w : Nat) := List (Nat × BitVec w)

/-- The whole machine. -/
structure State where
  /-- `ROM`, `BACKEND` and the other parameters of the build (10_state.md R20 (f), R56); nothing
  writes them -/
  build : Build
  /-- `ARG0` (R23) -/
  arg0 : Word
  /-- `ARG1` (R23) -/
  arg1 : Word
  /-- `STATUS.CMDERR` (R24) -/
  cmdErr : CmdErr
  /-- `STATUS.FERR_ANY` (R24) -/
  ferrAny : Bool
  /-- `RESULT` (R25) -/
  result : Word
  /-- `ERRINFO` (R26) -/
  errInfo : Word
  /-- the encoder context `E` -/
  e : Encoder
  /-- the decoder context `D` -/
  d : Decoder
  /-- the frame working registers `W` -/
  w : WorkRegs
  /-- the sequencer registers `SEQ` -/
  seq : SeqRegs
  /-- `PCMBUF` (20_memory.md R71), one cell a sample -/
  pcm : Memory 16
  /-- `BSBUF` (20_memory.md R72), one cell a byte -/
  bs : List Host.Cell
  /-- the operands and result of a called micro-operation (model's own) -/
  port : UopPort
  /-- the host's accesses (model's own) -/
  host : HostPort
  /-- how many free values have been taken (model's own, log entry 12) -/
  freeCount : Nat
deriving DecidableEq, Repr, Inhabited

/-- Why the machine stops with a fault. All four are raised where the engine or the host meets a cell of
a buffer that the spec gives no value; all are safe (the model stops where hardware would go on). -/
inductive Fault where
  /-- Raised by `LOAD_PCM` and `STORE_PCM` for a frame outside the capacity of `PCMBUF`
  (20_memory.md R81: no command gets there). Safe. -/
  | pcmCapacity (index : Nat)
  /-- Raised by `BS_PUT`, `BS_FLUSH`, `PACK` and by every read through `D.BR` for a byte outside the
  capacity of `BSBUF` (R81: no command gets there). Safe. -/
  | bsCapacity (index : Nat)
  /-- Raised by `LOAD_PCM` and by a host read of a sample nothing has written (10_state.md R57:
  "reading one is a fault"). Safe. -/
  | pcmUnwritten (index : Nat)
  /-- Raised by every read through `D.BR` and by a host read of a byte nothing has written (R57).
  Safe. -/
  | bsUnwritten (index : Nat)
deriving DecidableEq, Repr, Inhabited

/-- Why the model defines no step. -/
inductive Refusal where
  /-- The instruction has no meaning yet; raised by `exec`'s refused arms only. Safe. -/
  | notModelled (mnemonic : String)
  /-- Raised by a host access to the register block of another width than 32 bits or at another offset
  than 0x00 to 0x14 (20_memory.md R76, item I1). Safe. -/
  | registerAccess (offset width : Nat)
  /-- Raised by a host write to `STATUS`, `RESULT` or `ERRINFO` (R76, item I1). Safe. -/
  | readOnlyRegister (offset : Nat)
  /-- Raised by a host access to `PCMBUF` outside its capacity (R76, item I2). Safe. -/
  | pcmIndex (index : Nat)
  /-- Raised by a host access to `BSBUF` outside its capacity (R76, item I2). Safe. -/
  | bsIndex (index : Nat)
  /-- Raised by `BS_PUT` and `BS_GET` with `nbits` outside 1..32 (41_bitstream.md R182, item I3). Safe. -/
  | fieldWidth (nbits : Nat)
  /-- Raised by a step when `SEQ.PHASE` holds a code that no micro-operation has (30_encoding.md R104);
  no rule puts one there. Safe. -/
  | unassignedPhase (code : Byte)
deriving DecidableEq, Repr, Inhabited

/-- What an instruction's meaning answers. -/
abbrev Result := Host.Outcome State Fault Refusal

end Sys2Proof.Machine

namespace Sys2Proof.Config

open Sys2Proof.Machine

/-- The registers of side `E` "become unspecified" after `RELEASE` (47_frame_commands.md R367): a free
value for each release. Log entry 12. -/
opaque freeEncoder : Nat → Encoder

/-- The registers of side `D` "become unspecified" after `RELEASE` (R367): a free value for each
release. Log entry 12. -/
opaque freeDecoder : Nat → Decoder

end Sys2Proof.Config

namespace Sys2Proof.Machine

/-- A signal register with every element 0 (bits). -/
def SigReg.zeros (n : Nat) : SigReg n :=
  { fx := Vector.replicate n 0#16, fl := Vector.replicate n 0#32 }

/-- The state after reset (10_state.md R57 (a), R59). The values R57 gives: both contexts invalid,
`ARG0`, `ARG1`, `CMDERR`, `FERR_ANY`, `RESULT`, `ERRINFO` zero, `SEQ.PHASE` IDLE. Every register that
R57 leaves unspecified is zero here (DESIGN CHOICE, log entry 1), `port.nbits` is 1 (log entry 9),
and the buffers list nothing (log entry 3). -/
def State.reset : State where
  build := Sys2Proof.Config.build
  arg0 := 0#32
  arg1 := 0#32
  cmdErr := .ok
  ferrAny := false
  result := 0#32
  errInfo := 0#32
  e := { valid := false, mode := .nb, rate := 0#16, hist := SigReg.zeros 640,
         bw := { acc := 0#32, res := 0, ptr := 0 } }
  d := { valid := false, mode := .nb, rate := 0#16, oldcoef := SigReg.zeros 640, oldshift := 0#16,
         oldsamp := SigReg.zeros 320, rand := Vector.replicate 4 0#16,
         br := { acc := 0#32, res := 0, ptr := 0, rem := 0 } }
  w := { pcm := Vector.replicate 640 0#16, u := SigReg.zeros 640, x := SigReg.zeros 640,
         coef := SigReg.zeros 640, news := SigReg.zeros 640, out := SigReg.zeros 640,
         magsh := 0#16, abs := Vector.replicate 28 0#16, sym := Vector.replicate 28 0,
         env := [], envbits := 0, sd := SigReg.zeros 28, avail := 0, offset := 0,
         cat0 := Vector.replicate 28 0, cat := Vector.replicate 28 0, bal := Vector.replicate 31 0,
         catctl := 0, idxq := Vector.replicate 28 0, rbits := Vector.replicate 28 [],
         framebits := [], randsnap := Vector.replicate 4 0#16, underrun := false, ferr := 0#4 }
  seq := { cmd := 0#32, nframes := 0, frame := 0, phase := 0x00#8, region := 0,
           last := 0#4, orf := 0#4, nconc := 0#16 }
  pcm := []
  bs := []
  port := { value := 0#32, nbits := 1, result := 0#32 }
  host := { pending := [], readData := 0#32, cmdWord := 0#32 }
  freeCount := 0

end Sys2Proof.Machine
end

