-- ==== Sys2Proof/Machine/Vec.lean ====
section
/-! DEFINITION. Array registers and tables, `X[i]` and `X[i] <- v` of 00_scope.md R12: reading is total
(an index outside the array gives the type's default; no rule has one), a write outside does nothing. -/

namespace Sys2Proof.Machine

variable {α : Type} {n : Nat}

/-- `X[i]` (R12). -/
def vget [Inhabited α] (v : Vector α n) (i : Nat) : α :=
  if h : i < n then v[i] else default

/-- `X[i] <- x` (R12). -/
def vset (v : Vector α n) (i : Nat) (x : α) : Vector α n :=
  v.setIfInBounds i x

/-- The array whose element `i` is `f i`. -/
def vgen (n : Nat) (f : Nat → α) : Vector α n :=
  Vector.ofFn fun i : Fin n => f i.val

/-- `X[i] <- f i` for `i` in `0 .. m-1`; the elements from `m` on keep their values. -/
def vfill [Inhabited α] (v : Vector α n) (m : Nat) (f : Nat → α) : Vector α n :=
  vgen n fun i => if i < m then f i else vget v i

/-- `X[i] <- f i` for `i` in `a .. b-1`; the other elements keep their values. -/
def vfillFrom [Inhabited α] (v : Vector α n) (a b : Nat) (f : Nat → α) : Vector α n :=
  vgen n fun i => if a ≤ i ∧ i < b then f i else vget v i

/-- The first `m` elements of an array, as an array of that length. -/
def vtake [Inhabited α] (v : Vector α n) (m : Nat) : Vector α m :=
  vgen m fun i => vget v i

/-- An element of a list, the type's default outside it. -/
def lget [Inhabited α] (l : List α) (i : Nat) : α := l.getD i default

end Sys2Proof.Machine
end

