-- ==== Sys2Proof/Machine/BasicOps.lean ====
section
/-! DEFINITION. The basic operations of 40_basic_ops.md: pure, total, saturating fixed-point
arithmetic over `int16` and `int32`. Each is computed over the integers and narrowed at the end. -/

namespace Sys2Proof.Machine

/-- The `int16` with value `x`; low 16 bits where `x` is outside the range (no rule of 40_basic_ops.md
but `xl` leaves it so). -/
def toI16 (x : Int) : I16 := BitVec.ofInt 16 x

/-- The `int32` with value `x`. -/
def toI32 (x : Int) : I32 := BitVec.ofInt 32 x

/-- R141 -/
def add16 (a b : I16) : I16 := toI16 (sat16 (a.toInt + b.toInt))

/-- R142 -/
def sub16 (a b : I16) : I16 := toI16 (sat16 (a.toInt - b.toInt))

/-- R143 -/
def neg16 (a : I16) : I16 := toI16 (sat16 (-a.toInt))

/-- R144 -/
def abs16 (a : I16) : I16 := toI16 (sat16 |a.toInt|)

/-- The left shift of R145 for a count at or above 0, over the integers. -/
def shiftUp16 (v n : Int) : Int :=
  if v = 0 then 0
  else if n ≥ 15 then (if v > 0 then 32767 else -32768)
  else sat16 (v * 2 ^ n.toNat)

/-- The right shift of R146 for a count at or above 0, over the integers. -/
def shiftDown16 (v n : Int) : Int :=
  if n ≥ 15 then (if v < 0 then -1 else 0) else v / 2 ^ n.toNat

/-- R145; the count is an `int16`, or the negation of one, and is taken over the integers. -/
def shl16 (v : I16) (n : Int) : I16 :=
  toI16 (if n < 0 then shiftDown16 v.toInt (-n) else shiftUp16 v.toInt n)

/-- R146 -/
def shr16 (v : I16) (n : Int) : I16 :=
  toI16 (if n < 0 then shiftUp16 v.toInt (-n) else shiftDown16 v.toInt n)

/-- R147 -/
def add32 (a b : I32) : I32 := toI32 (sat32 (a.toInt + b.toInt))

/-- R148 -/
def sub32 (a b : I32) : I32 := toI32 (sat32 (a.toInt - b.toInt))

/-- The left shift of R149 for a count at or above 0, over the integers. -/
def shiftUp32 (v n : Int) : Int :=
  if v = 0 then 0
  else if n ≥ 31 then (if v > 0 then 2147483647 else -2147483648)
  else sat32 (v * 2 ^ n.toNat)

/-- The right shift of R150 for a count at or above 0, over the integers. -/
def shiftDown32 (v n : Int) : Int :=
  if n ≥ 31 then (if v < 0 then -1 else 0) else v / 2 ^ n.toNat

/-- R149 -/
def shl32 (v : I32) (n : Int) : I32 :=
  toI32 (if n < 0 then shiftDown32 v.toInt (-n) else shiftUp32 v.toInt n)

/-- R150 -/
def shr32 (v : I32) (n : Int) : I32 :=
  toI32 (if n < 0 then shiftUp32 v.toInt (-n) else shiftDown32 v.toInt n)

/-- R151 -/
def mult16 (a b : I16) : I16 := toI16 (sat16 (a.toInt * b.toInt / 32768))

/-- R152 -/
def lmult (a b : I16) : I32 := toI32 (sat32 (2 * a.toInt * b.toInt))

/-- R153 -/
def lmult0 (a b : I16) : I32 := toI32 (a.toInt * b.toInt)

/-- R154 -/
def lmac (acc : I32) (a b : I16) : I32 := add32 acc (lmult a b)

/-- R155 -/
def lmac0 (acc : I32) (a b : I16) : I32 := add32 acc (lmult0 a b)

/-- R156 -/
def round16 (v : I32) : I16 := toI16 ((add32 v (toI32 32768)).toInt / 65536)

/-- R157, the 32-bit form -/
def rshr32 (v : I32) (n : Int) : I32 :=
  if n ≤ 0 then shl32 v (-n)
  else toI32 ((v.toInt + 2 ^ (n - 1).toNat) / 2 ^ n.toNat)

/-- R157, the 16-bit form -/
def rshr16 (v : I16) (n : Int) : I16 :=
  if n ≤ 0 then shl16 v (-n)
  else toI16 ((v.toInt + 2 ^ (n - 1).toNat) / 2 ^ n.toNat)

/-- R158: the low 16 bits, the one primitive that wraps -/
def xl (v : I32) : I16 := v.setWidth 16

/-- R158: the high 16 bits -/
def xh (v : I32) : I16 := toI16 (v.toInt / 65536)

/-- The least `n` below `bound` with `t * 2^n >= target` (R159, R160); `bound` if there is none. -/
def leastShift (t : Int) (target : Int) (bound : Nat) : Nat :=
  ((List.range bound).find? fun n => decide (target ≤ t * 2 ^ n)).getD bound

/-- R159, with the sentinel `NORM_ZERO` of the build -/
def norm16 (normZero : I16) (v : I16) : I16 :=
  if v.toInt = 0 then normZero
  else if v.toInt = -1 then toI16 15
  else toI16 (leastShift (if v.toInt > 0 then v.toInt else -v.toInt - 1) 16384 15)

/-- R160, with the sentinel `NORM_ZERO` of the build -/
def norm32 (normZero : I16) (v : I32) : I16 :=
  if v.toInt = 0 then normZero
  else if v.toInt = -1 then toI16 31
  else toI16 (leastShift (if v.toInt > 0 then v.toInt else -v.toInt - 1) 1073741824 31)

end Sys2Proof.Machine
end

