-- ==== Sys2Proof/WellFormed.lean ====
section
/-! DEFINITION. Which instructions have a legal encoding: the legal `SIDE` column of
30_encoding.md R102 (the other words with those opcodes are illegal, R105). -/

namespace Sys2Proof

/-- `ENCODE` is a command of side `E` only, `DECODE` and `FILL_IN` of side `D` only; `INIT`,
`SET_RATE` and `RELEASE` take either side; a micro-operation has nothing to check (R102, R104). -/
def Instr.wellFormed : Instr → Bool
  | .encode side => side == .enc
  | .decode side => side == .dec
  | .fillIn side => side == .dec
  | .init _ | .setRate _ | .release _ => true
  | .idle | .cmdCheck | .loadPcm | .storePcm | .bsPut | .bsGet | .bsFlush | .bsWinit | .bsRinit
  | .dct4Fwd | .dct4Inv | .winAna | .headroom | .winSyn | .pwrEst | .pwrAdj | .pwrEnc | .pwrDec
  | .sdShift | .categorize | .catReplay | .rateAdj | .vqEnc | .vqDec | .noiseFill | .rand | .pack
  | .frameCheck | .conceal => true

end Sys2Proof
end

