-- ==== Sys2Proof/Decode.lean ====
section
/-! DEFINITION. Decoding and encoding (30_encoding.md R100 to R106). There are two formats: a 32-bit
command word (R101) and an 8-bit micro-operation code, a value of `SEQ.PHASE` (R104). Decoding is
total; a word that stands for nothing is rejected by name. -/

namespace Sys2Proof

/-- What is decoded: a word written to `CMD`, or a value of `SEQ.PHASE`. -/
inductive CodeWord where
  | cmd (w : Word)
  | phase (c : Byte)
deriving DecidableEq, Repr, Inhabited

/-- Why a code word is rejected (R105 for commands; R104 lists every assigned phase code). -/
inductive DecodeError where
  /-- `OPC` is 0x00 or in 0x07..0xFF. -/
  | reservedOpcode (opc : Byte)
  /-- `ZERO` (bits 22:0) is not 0. -/
  | reservedBits (zero : BitVec 23)
  /-- the opcode does not have this `SIDE`. -/
  | illegalSide (opc : Byte) (side : Side)
  /-- no micro-operation has this code. -/
  | unassignedPhase (c : Byte)
deriving DecidableEq, Repr, Inhabited

/-- Field `OPC` = bits 31:24 (R101). -/
def cmdOpc (w : Word) : Byte := w.extractLsb' 24 8

/-- Field `SIDE` = bit 23 (R101): 0 = encoder, 1 = decoder. -/
def cmdSide (w : Word) : Side := if w.getLsbD 23 then .dec else .enc

/-- Field `ZERO` = bits 22:0 (R101). -/
def cmdZero (w : Word) : BitVec 23 := w.extractLsb' 0 23

/-- The opcode map of R102, before the legal sides are checked. -/
def commandOf (opc : Byte) (side : Side) : Option Instr :=
  if opc = 0x01#8 then some (.init side)
  else if opc = 0x02#8 then some (.setRate side)
  else if opc = 0x03#8 then some (.encode side)
  else if opc = 0x04#8 then some (.decode side)
  else if opc = 0x05#8 then some (.fillIn side)
  else if opc = 0x06#8 then some (.release side)
  else none

/-- Decoding of a command word (R101, R102, R105). -/
def decodeCommand (w : Word) : Except DecodeError Instr :=
  match commandOf (cmdOpc w) (cmdSide w) with
  | none => .error (.reservedOpcode (cmdOpc w))
  | some i =>
    if cmdZero w ≠ 0#23 then .error (.reservedBits (cmdZero w))
    else if i.wellFormed then .ok i
    else .error (.illegalSide (cmdOpc w) (cmdSide w))

/-- The micro-operation codes of R104, in the table's order. -/
def uopTable : List (Byte × Instr) :=
  [(0x00#8, .idle), (0x01#8, .cmdCheck), (0x02#8, .loadPcm), (0x03#8, .storePcm),
   (0x10#8, .bsPut), (0x11#8, .bsGet), (0x12#8, .bsFlush), (0x13#8, .bsWinit), (0x14#8, .bsRinit),
   (0x20#8, .dct4Fwd), (0x21#8, .dct4Inv),
   (0x30#8, .winAna), (0x31#8, .headroom), (0x32#8, .winSyn),
   (0x40#8, .pwrEst), (0x41#8, .pwrAdj), (0x42#8, .pwrEnc), (0x43#8, .pwrDec), (0x44#8, .sdShift),
   (0x50#8, .categorize), (0x51#8, .catReplay), (0x52#8, .rateAdj),
   (0x60#8, .vqEnc), (0x61#8, .vqDec), (0x62#8, .noiseFill), (0x63#8, .rand), (0x64#8, .pack),
   (0x70#8, .frameCheck), (0x71#8, .conceal)]

/-- Decoding of a phase code (R104). -/
def decodePhase (c : Byte) : Except DecodeError Instr :=
  match uopTable.lookup c with
  | some i => .ok i
  | none => .error (.unassignedPhase c)

/-- The decoder of both formats. -/
def decode : CodeWord → Except DecodeError Instr
  | .cmd w => decodeCommand w
  | .phase c => decodePhase c

/-- The command word with operation code `opc` and side `side` (R101); `ZERO` is 0. -/
def commandWord (opc : Byte) (side : Side) : Word :=
  opc ++ (match side with | .enc => 0#1 | .dec => 1#1) ++ 0#23

/-- The encoder, from the tables of R102 and R104. -/
def encode : Instr → CodeWord
  | .init side => .cmd (commandWord 0x01#8 side)
  | .setRate side => .cmd (commandWord 0x02#8 side)
  | .encode side => .cmd (commandWord 0x03#8 side)
  | .decode side => .cmd (commandWord 0x04#8 side)
  | .fillIn side => .cmd (commandWord 0x05#8 side)
  | .release side => .cmd (commandWord 0x06#8 side)
  | .idle => .phase 0x00#8
  | .cmdCheck => .phase 0x01#8
  | .loadPcm => .phase 0x02#8
  | .storePcm => .phase 0x03#8
  | .bsPut => .phase 0x10#8
  | .bsGet => .phase 0x11#8
  | .bsFlush => .phase 0x12#8
  | .bsWinit => .phase 0x13#8
  | .bsRinit => .phase 0x14#8
  | .dct4Fwd => .phase 0x20#8
  | .dct4Inv => .phase 0x21#8
  | .winAna => .phase 0x30#8
  | .headroom => .phase 0x31#8
  | .winSyn => .phase 0x32#8
  | .pwrEst => .phase 0x40#8
  | .pwrAdj => .phase 0x41#8
  | .pwrEnc => .phase 0x42#8
  | .pwrDec => .phase 0x43#8
  | .sdShift => .phase 0x44#8
  | .categorize => .phase 0x50#8
  | .catReplay => .phase 0x51#8
  | .rateAdj => .phase 0x52#8
  | .vqEnc => .phase 0x60#8
  | .vqDec => .phase 0x61#8
  | .noiseFill => .phase 0x62#8
  | .rand => .phase 0x63#8
  | .pack => .phase 0x64#8
  | .frameCheck => .phase 0x70#8
  | .conceal => .phase 0x71#8

/-- The command word of an instruction (0 for a micro-operation, which has none). -/
def wordOf (i : Instr) : Word :=
  match encode i with
  | .cmd w => w
  | .phase _ => 0#32

/-- The `SEQ.PHASE` code of an instruction (0, `IDLE`, for a command, which has none). -/
def phaseOf (i : Instr) : Byte :=
  match encode i with
  | .cmd _ => 0#8
  | .phase c => c

/-- The code word of an opcode-table row: rows of 32 bits are command words, rows of 8 bits are
micro-operation codes; no other width stands in the table. -/
def codeWordOfBits (nbits w : Nat) : Option CodeWord :=
  if nbits = 32 then some (.cmd (BitVec.ofNat 32 w))
  else if nbits = 8 then some (.phase (BitVec.ofNat 8 w))
  else none

/-- The instruction the decoder reads from an opcode-table row's bits. -/
def decodeTableWord (nbits w : Nat) : Option Instr :=
  match codeWordOfBits nbits w with
  | none => none
  | some c =>
    match decode c with
    | .ok i => some i
    | .error _ => none

end Sys2Proof
end

