-- ==== Sys2Proof/Machine/Memory.lean ====
section
/-! DEFINITION. The two buffers as memories of cells (20_memory.md R70 to R72), in one canonical form:
addresses strictly rising. An address that is not listed has not been written (log entry 3). -/

namespace Sys2Proof.Machine

variable {w : Nat}

/-- The value at an address; `none` where nothing has been written. -/
def Memory.read : Memory w → Nat → Option (BitVec w)
  | [], _ => none
  | (b, v) :: m, a => if a = b then some v else Memory.read m a

/-- The memory with `v` at address `a`. -/
def Memory.write : Memory w → Nat → BitVec w → Memory w
  | [], a, v => [(a, v)]
  | (b, u) :: m, a, v =>
    if a < b then (a, v) :: (b, u) :: m
    else if a = b then (a, v) :: m
    else (b, u) :: Memory.write m a v

/-- `MemWrite(space, a, n, v)` of R12: the values of the list at `a, a+1, ...`. -/
def Memory.writeList : Memory w → Nat → List (BitVec w) → Memory w
  | m, _, [] => m
  | m, a, v :: vs => Memory.writeList (Memory.write m a v) (a + 1) vs

/-- The canonical form: addresses strictly rising. -/
def Memory.wf : Memory w → Bool
  | [] => true
  | [_] => true
  | (a, _) :: (b, u) :: m => decide (a < b) && Memory.wf ((b, u) :: m)

/-- Every listed address is below `cap`. -/
def Memory.within (m : Memory w) (cap : Nat) : Bool := m.all fun c => decide (c.1 < cap)

/-- The capacity of `PCMBUF` in samples (R70). -/
def pcmCap (s : State) : Nat := 640 * s.build.maxFrames

/-- The capacity of `BSBUF` in bytes (R70). -/
def bsCap (s : State) : Nat := 120 * s.build.maxFrames

/-- The engine's read of one sample of `PCMBUF`. -/
def readPcm (s : State) (i : Nat) : Except Fault (BitVec 16) :=
  match Memory.read s.pcm i with
  | some v => if i < pcmCap s then .ok v else .error (.pcmCapacity i)
  | none => .error (if i < pcmCap s then .pcmUnwritten i else .pcmCapacity i)

/-- The engine's read of one byte of `BSBUF`. -/
def readBs (s : State) (i : Nat) : Except Fault Byte :=
  match Memory.read (w := 8) s.bs i with
  | some v => if i < bsCap s then .ok v else .error (.bsCapacity i)
  | none => .error (if i < bsCap s then .bsUnwritten i else .bsCapacity i)

/-- `MemRead(PCMBUF, a, n)` of R12: the first fault on the way, or the `n` samples. -/
def readPcmList (s : State) (a : Nat) : Nat → Except Fault (List (BitVec 16))
  | 0 => .ok []
  | n + 1 =>
    match readPcm s a with
    | .error f => .error f
    | .ok v =>
      match readPcmList s (a + 1) n with
      | .error f => .error f
      | .ok vs => .ok (v :: vs)

/-- The byte `k` of `PCMBUF` that a byte-addressing host sees (R73): sample `k / 2`, its low or high byte
as `PCM_BYTE_ORDER` says. A view only: no access of the TCE is a byte of `PCMBUF` (R76). -/
def pcmByteView (s : State) (k : Nat) : Option Byte :=
  (Memory.read s.pcm (k / 2)).map fun v =>
    let high := match s.build.pcmByteOrder with
      | .little => k % 2 == 1
      | .big => k % 2 == 0
    if high then v.extractLsb' 8 8 else v.extractLsb' 0 8

/-- Where a register at a byte offset stands in the host's address space (10_state.md R21, 20_memory.md
R80). DESIGN CHOICE: the spec leaves the width of that space to the platform; here it is 32 bits and the sum
wraps modulo 2^32 (log entry 28). -/
def regAddress (s : State) (offset : Nat) : Word := s.build.tceBase + BitVec.ofNat 32 offset

end Sys2Proof.Machine
end

