-- ==== Sys2Proof/Machine/Flags.lean ====
section
/-! DEFINITION. The flag registers and status words: `STATUS` (10_state.md R24), `W.FERR` (R37) and
`ERRINFO` (R26). The TCE has no arithmetic flags (R37). -/

namespace Sys2Proof.Machine

/-- The 4-bit code of a command result (R24). -/
def CmdErr.code : CmdErr → BitVec 4
  | .ok => 0#4
  | .cfgErr => 1#4
  | .noCtx => 2#4
  | .illCmd => 3#4
  | .bufErr => 4#4

/-- The one-bit field of a flag. -/
def flagBit (b : Bool) : BitVec 1 := if b then 1#1 else 0#1

/-- `STATUS` as the host reads it (R24): bits 31:10 zero, `BACKEND`, `FERR_ANY`, `CMDERR`, bit 3 zero,
`D_VALID`, `E_VALID`, `BUSY` = 0. -/
def statusWord (s : State) : Word :=
  0#22 ++ flagBit (s.build.backend == .float) ++ flagBit s.ferrAny ++ s.cmdErr.code ++ 0#1 ++
    flagBit s.d.valid ++ flagBit s.e.valid ++ 0#1

/-- `PAD`, flag value 1 (60_exceptions.md R407). -/
def ferrPad : BitVec 4 := 1#4

/-- `OVERRUN`, flag value 2 (R408). -/
def ferrOverrun : BitVec 4 := 2#4

/-- `RANGE`, flag value 4 (R409). -/
def ferrRange : BitVec 4 := 4#4

/-- `ERASED`, flag value 8 (R410). -/
def ferrErased : BitVec 4 := 8#4

/-- A flag of `W.FERR` set when the condition holds. -/
def ferrSetIf (c : Bool) (flag ferr : BitVec 4) : BitVec 4 := if c then ferr ||| flag else ferr

/-- `ERRINFO <- last | (or << 4) | (nconc << 16)` (R411). -/
def errInfoWord (q : SeqRegs) : Word := q.nconc ++ 0#8 ++ q.orf ++ q.last

/-- The end of a frame (R411): `last`, `or` and `nconc` take in the frame's flags. -/
def recordFrame (ferr : BitVec 4) (q : SeqRegs) : SeqRegs :=
  { q with
    last := ferr
    orf := q.orf ||| ferr
    nconc := if ferr ≠ 0#4 then BitVec.ofNat 16 (min 65535 (q.nconc.toNat + 1)) else q.nconc }

/-- `STATUS.FERR_ANY <- 1 if nconc > 0 else 0` (R411). -/
def ferrAnyOf (q : SeqRegs) : Bool := q.nconc ≠ 0#16

end Sys2Proof.Machine
end

