-- ==== Sys2Proof/Machine/Numerics.lean ====
section
/-! DEFINITION. The operations of the float type `F` (42_transform.md R215): what the spec states of their
results, from what an operand stands for. That is the order, `floorF` and `rint` (47_frame_commands.md R379;
92_eei_decisions.md D40), and the arithmetic on zeros, by which "an all-zero input gives an all-zero output in
both backends" (R201, R221). The rest is the rounding of Config.lean. -/

namespace Sys2Proof.Config

/-! ## What a value stands for -/

/-- What an `F` value stands for: `toF(0)` is the number 0. -/
def fKind (v : FVal) : FKind := if v = fOfInt 0 then .number 0 else fKindOther v

/-- Does the value stand for a number ("finite", R215)? -/
def fIsNumber (v : FVal) : Bool :=
  match fKind v with
  | .number _ => true
  | .infinity _ | .nan => false

/-- Does the value stand for the number 0? "True for both signed zeros" (46_vector_quantizer.md R343). -/
def fIsZero (v : FVal) : Bool := fKind v == .number 0

/-! ## Arithmetic

A result that is exact by a zero operand stands for the exact number. Which of the words for that number it is
(a format may have two zeros) is the uninterpreted operation's affair. -/

/-- A word that stands for what `exact` stands for: `rounded` where it does, else `exact`. -/
def fStandsFor (exact rounded : FVal) : FVal := if fKind rounded = fKind exact then rounded else exact

/-- `+_F`: a number and a zero give that number. -/
def fAdd (a b : FVal) : FVal :=
  if fIsZero b && fIsNumber a then fStandsFor a (fAddRounded a b)
  else if fIsZero a && fIsNumber b then fStandsFor b (fAddRounded a b)
  else fAddRounded a b

/-- `-_F`: a number less a zero is that number. -/
def fSub (a b : FVal) : FVal :=
  if fIsZero b && fIsNumber a then fStandsFor a (fSubRounded a b) else fSubRounded a b

/-- `*_F`: a zero times a number is zero. -/
def fMul (a b : FVal) : FVal :=
  if (fIsZero a && fIsNumber b) || (fIsZero b && fIsNumber a) then
    fStandsFor (fOfInt 0) (fMulRounded a b)
  else fMulRounded a b

/-- `/_F`: a zero over a number that is not zero is zero. -/
def fDiv (a b : FVal) : FVal :=
  if fIsZero a && fIsNumber b && !fIsZero b then fStandsFor (fOfInt 0) (fDivRounded a b)
  else fDivRounded a b

/-- `F` negation (46_vector_quantizer.md R332): of a zero a zero. -/
def fNeg (a : FVal) : FVal := if fIsZero a then fStandsFor a (fNegOther a) else fNegOther a

/-- The `F` absolute value (46_vector_quantizer.md R327): of a zero a zero. -/
def fAbs (a : FVal) : FVal := if fIsZero a then fStandsFor a (fAbsOther a) else fAbsOther a

/-! ## Order and integers -/

/-- The nearest integer, ties to the even integer (R215, R379; 90_conflicts.md C21). -/
def nearestEven (x : ℚ) : Int :=
  let n := x.floor
  if x - n < 1 / 2 then n
  else if 1 / 2 < x - n then n + 1
  else if n % 2 = 0 then n else n + 1

/-- `<_F` (R215): the order of the numbers, with the infinities at its ends. -/
def fLt (a b : FVal) : Bool :=
  match fKind a, fKind b with
  | .number x, .number y => decide (x < y)
  | .number _, .infinity negative => !negative
  | .infinity negative, .number _ => negative
  | .infinity m, .infinity n => m && !n
  | .nan, _ | _, .nan => fLtNan a b

/-- The `F` equality test, of the numbers: "true for both signed zeros" (46_vector_quantizer.md R343). -/
def fEq (a b : FVal) : Bool :=
  match fKind a, fKind b with
  | .number x, .number y => decide (x = y)
  | .infinity m, .infinity n => m == n
  | .number _, .infinity _ | .infinity _, .number _ => false
  | .nan, _ | _, .nan => fEqNan a b

/-- `floorF : F -> Z` (R215). -/
def fFloor (v : FVal) : Int :=
  match fKind v with
  | .number x => x.floor
  | .infinity _ | .nan => fFloorOther v

/-- `rint : F -> Z`, nearest integer, ties to the even integer (R215, R379). -/
def fRint (v : FVal) : Int :=
  match fKind v with
  | .number x => nearestEven x
  | .infinity _ | .nan => fRintOther v

end Sys2Proof.Config
end

