-- ==== Sys2Proof/Machine/Operands.lean ====
section
/-! DEFINITION. Where operations find their operands: `ARG0` and `ARG1` (30_encoding.md R103), the
context a command or micro-operation works on, the tables of `ROM` (10_state.md R40 to R54), and the
bit strings of the frame wire format (R108 to R112). -/

namespace Sys2Proof.Machine

/-! ## Command operands -/

/-- The mode selector `ARG1` (00_scope.md R7, R103). -/
def modeOfSelector (a : Word) : Option Mode :=
  if a = 16000#32 then some .nb else if a = 32000#32 then some .wb else none

/-- `X.VALID` of the side a command selects. -/
def validOf (s : State) : Side → Bool
  | .enc => s.e.valid
  | .dec => s.d.valid

/-- The side of the command being run: bit 23 of `SEQ.CMD` (R101). Log entry 10. -/
def runSide (s : State) : Side := cmdSide s.seq.cmd

/-- The mode of the context that the running command works on. -/
def runMode (s : State) : Mode :=
  match runSide s with
  | .enc => s.e.mode
  | .dec => s.d.mode

/-- `BPF` of the encoder context (R8). -/
def encBpf (s : State) : Nat := bpf s.e.rate.toNat

/-- `BYPF` of the encoder context (R8). -/
def encBypf (s : State) : Nat := bypf s.e.rate.toNat

/-- `BPF` of the decoder context (R8). -/
def decBpf (s : State) : Nat := bpf s.d.rate.toNat

/-- `BYPF` of the decoder context (R8). -/
def decBypf (s : State) : Nat := bypf s.d.rate.toNat

/-- `NFRAMES` of a command (47_frame_commands.md R370, R375, R383; 0 for the others, R360). -/
def nframesOf (i : Instr) (s : State) : Nat :=
  match i with
  | .encode _ => s.arg0.toNat / s.e.mode.blk
  | .decode _ => s.arg0.toNat / decBypf s
  | .fillIn _ => s.arg0.toNat / decBypf s
  | .init _ | .setRate _ | .release _ => 0
  | .idle | .cmdCheck | .loadPcm | .storePcm | .bsPut | .bsGet | .bsFlush | .bsWinit | .bsRinit
  | .dct4Fwd | .dct4Inv | .winAna | .headroom | .winSyn | .pwrEst | .pwrAdj | .pwrEnc | .pwrDec
  | .sdShift | .categorize | .catReplay | .rateAdj | .vqEnc | .vqDec | .noiseFill | .rand | .pack
  | .frameCheck | .conceal => 0

/-! ## Tables of the ROM -/

end Sys2Proof.Machine

namespace Sys2Proof

open Machine

variable {α : Type}

/-- `WIN_ANA[m][i]` (R41). -/
def NumTables.winAna [Inhabited α] (t : NumTables α) (m : Mode) (i : Nat) : α :=
  match m with
  | .nb => vget t.winAnaNb i
  | .wb => vget t.winAnaWb i

/-- `WIN_SYN[m][i]` (R41). -/
def NumTables.winSyn [Inhabited α] (t : NumTables α) (m : Mode) (i : Nat) : α :=
  match m with
  | .nb => vget t.winSynNb i
  | .wb => vget t.winSynWb i

/-- `CORE_FWD[m][i][k]` (R42). -/
def NumTables.coreFwd [Inhabited α] (t : NumTables α) (m : Mode) (i k : Nat) : α :=
  match m with
  | .nb => vget (vget t.coreFwdNb i) k
  | .wb => vget (vget t.coreFwdWb i) k

/-- `CORE_INV[m][i][k]` (R42). -/
def NumTables.coreInv [Inhabited α] (t : NumTables α) (m : Mode) (i k : Nat) : α :=
  match m with
  | .nb => vget (vget t.coreInvNb i) k
  | .wb => vget (vget t.coreInvWb i) k

/-- `COSMSIN[span][i]` (R43). -/
def NumTables.cosmsin [Inhabited α] (t : NumTables α) (span i : Nat) : α × α :=
  if span = 20 then vget t.cs20 i
  else if span = 40 then vget t.cs40 i
  else if span = 80 then vget t.cs80 i
  else if span = 160 then vget t.cs160 i
  else if span = 320 then vget t.cs320 i
  else if span = 640 then vget t.cs640 i
  else default

/-- `DITHER[m][i]` (R44). -/
def FixedTables.dither (t : FixedTables) (m : Mode) (i : Nat) : I16 :=
  match m with
  | .nb => vget t.ditherNb i
  | .wb => vget t.ditherWb i

/-- `K_FWD[m]` (R54). -/
def FloatTables.kFwd (t : FloatTables) : Mode → FVal
  | .nb => t.kFwdNb
  | .wb => t.kFwdWb

/-- `K_INV[m]` (R54). -/
def FloatTables.kInv (t : FloatTables) : Mode → FVal
  | .nb => t.kInvNb
  | .wb => t.kInvWb

/-- The entry `T[n][b]` of a decode tree (R50). -/
def TreeNode.next (n : TreeNode) (b : Bool) : Int := if b then n.one else n.zero

end Sys2Proof

namespace Sys2Proof.Machine

/-- `DRP_TREE[r]` (R50). -/
def drpTreeAt (rom : Rom) (r n : Nat) : TreeNode := vget (vget rom.drpTree r) n

/-- `VQ_TREE[c]` (R51). -/
def vqTreeAt (rom : Rom) (c n : Nat) : TreeNode := lget (vget rom.vqTree c) n

/-- A row of a 64-row power table: `clamp(x, 0, 63)` (44_region_power.md R287, R288; R323). -/
def tableRow (x : Int) : Nat := (clampInt x 0 63).toNat

/-! ## Bit strings -/

/-- `bits(v, n)`: the `n` low bits of `v`, most significant first (46_vector_quantizer.md R322). -/
def bitsOf (v n : Nat) : List Bool := (List.range n).map fun i => v.testBit (n - 1 - i)

/-- The unsigned number whose bits these are, the first most significant. -/
def natOfBits (bs : List Bool) : Nat := bs.foldl (fun a b => 2 * a + b.toNat) 0

/-- The code of symbol `j` in region `r` of the envelope (30_encoding.md R110). -/
def drpCodeBits (rom : Rom) (r j : Nat) : List Bool :=
  bitsOf (vget (vget rom.drpCode r) j) (vget (vget rom.drpLen r) j)

/-- The code of composite index `i` in category `c` (R112). -/
def vqCodeBits (rom : Rom) (c i : Nat) : List Bool :=
  bitsOf (lget (vget rom.vqCode c) i) (lget (vget rom.vqLen c) i)

end Sys2Proof.Machine
end

