-- ==== Sys2Proof/Machine/Ops.lean ====
section
/-! DEFINITION. The named operations over the state that meanings share: the updates of one part of
the state, the checks every command starts with, the two kinds of exception the TCE takes (a command
error, 60_exceptions.md R405, and the entry into concealment, R412), and command completion. -/

namespace Sys2Proof.Machine

/-! ## One part of the state -/

def State.setE (s : State) (e : Encoder) : State := { s with e := e }
def State.setD (s : State) (d : Decoder) : State := { s with d := d }
def State.setW (s : State) (w : WorkRegs) : State := { s with w := w }
def State.setSeq (s : State) (q : SeqRegs) : State := { s with seq := q }
def State.setPcm (s : State) (m : Memory 16) : State := { s with pcm := m }
def State.setBs (s : State) (m : List Host.Cell) : State := { s with bs := m }
def State.setPort (s : State) (p : UopPort) : State := { s with port := p }
def State.setHost (s : State) (h : HostPort) : State := { s with host := h }

/-- `SEQ.PHASE <- c` (10_state.md R33). -/
def State.setPhase (s : State) (c : Byte) : State := s.setSeq { s.seq with phase := c }

/-- `SEQ.FRAME <- f`. -/
def State.setFrame (s : State) (f : Nat) : State := s.setSeq { s.seq with frame := f }

/-- `SEQ.REGION <- r`. -/
def State.setRegion (s : State) (r : Nat) : State :=
  s.setSeq { s.seq with region := Fin.ofNat 28 r }

/-- The face of a signal register that the build has is rewritten; the other is untouched (R38). -/
def SigReg.put {n : Nat} (r : SigReg n) (b : Backend) (fx : Vector I16 n) (fl : Vector FVal n) :
    SigReg n :=
  match b with
  | .fixed => { r with fx := fx }
  | .float => { r with fl := fl }

/-! ## Sequencing of outcomes -/

/-- Run `f` on the next state; a fault or a refusal ends the run. -/
def thenDo (o : Result) (f : State → Result) : Result :=
  match o with
  | .next s => f s
  | .fault r => .fault r
  | .refused r => .refused r

/-- The meanings of a list one after the other. -/
def runAll : List (State → Result) → State → Result
  | [], s => .next s
  | m :: ms, s => thenDo (m s) (runAll ms)

/-- The answer of an operation that may meet a buffer cell without a value. -/
def ofExcept (r : Except Fault State) : Result :=
  match r with
  | .ok s => .next s
  | .error f => .fault f

/-! ## Command errors (the first kind of exception) -/

/-- Taking a command error (60_exceptions.md R405; 47_frame_commands.md R361): `CMDERR` takes the code,
`RESULT` is 0, the sequencer is idle, and nothing else changes. -/
def commandError (err : CmdErr) (s : State) : State :=
  { s with cmdErr := err, result := 0#32, seq := { s.seq with phase := 0x00#8 } }

/-- The end of a command that succeeds (R361): `CMDERR` is `OK`, `RESULT` the number of output units
(10_state.md R25), the sequencer idle. -/
def complete (units : Nat) (s : State) : State :=
  { s with cmdErr := .ok, result := BitVec.ofNat 32 units, seq := { s.seq with phase := 0x00#8 } }

/-- Check 2 of 47_frame_commands.md R360: the side has a context, unless the command is `INIT`. -/
def needsContext : Instr → Option Side
  | .setRate side => some side
  | .encode side => some side
  | .decode side => some side
  | .fillIn side => some side
  | .release side => some side
  | .init _ => none
  | .idle | .cmdCheck | .loadPcm | .storePcm | .bsPut | .bsGet | .bsFlush | .bsWinit | .bsRinit
  | .dct4Fwd | .dct4Inv | .winAna | .headroom | .winSyn | .pwrEst | .pwrAdj | .pwrEnc | .pwrDec
  | .sdShift | .categorize | .catReplay | .rateAdj | .vqEnc | .vqDec | .noiseFill | .rand | .pack
  | .frameCheck | .conceal => none

/-- Check 3 of R360: the operands of `INIT` and `SET_RATE` are legal (30_encoding.md R103). -/
def configLegal (i : Instr) (s : State) : Bool :=
  match i with
  | .init _ => legalRate s.arg0.toNat && (modeOfSelector s.arg1).isSome
  | .setRate _ => legalRate s.arg0.toNat
  | .encode _ | .decode _ | .fillIn _ | .release _ => true
  | .idle | .cmdCheck | .loadPcm | .storePcm | .bsPut | .bsGet | .bsFlush | .bsWinit | .bsRinit
  | .dct4Fwd | .dct4Inv | .winAna | .headroom | .winSyn | .pwrEst | .pwrAdj | .pwrEnc | .pwrDec
  | .sdShift | .categorize | .catReplay | .rateAdj | .vqEnc | .vqDec | .noiseFill | .rand | .pack
  | .frameCheck | .conceal => true

/-- The four checks of `CMD_CHECK` in their order (R360) on a command word: the code of the first that
fails, or the command and its `NFRAMES`. -/
def checkCommand (c : Word) (s : State) : Except CmdErr (Instr × Nat) :=
  match decodeCommand c with
  | .error _ => .error .illCmd
  | .ok i =>
    if (needsContext i).any (fun side => !validOf s side) then .error .noCtx
    else if !configLegal i s then .error .cfgErr
    else if nframesOf i s > s.build.maxFrames then .error .bufErr
    else .ok (i, nframesOf i s)

/-- What passing `CMD_CHECK` writes (R360): `SEQ.CMD` and `SEQ.NFRAMES`. -/
def beginCommand (c : Word) (nframes : Nat) (s : State) : State :=
  s.setSeq { s.seq with cmd := c, nframes := nframes }

/-- A command: `CMD_CHECK` on its word, then its body (R360, R361). -/
def runCommand (c : Word) (body : State → Result) (s : State) : Result :=
  match checkCommand c s with
  | .error err => .next (commandError err s)
  | .ok (_, n) => body (beginCommand c n s)

/-! ## Concealment (the second kind of exception, the trap path) -/

/-- The coefficients `CONCEAL` leaves in `W.COEF` (60_exceptions.md R412): the retained ones in a bad
frame, the decoded ones in a good frame, and 0 above the coded regions. -/
def concealCoef {α : Type} [Inhabited α] (bad : Bool) (m : Mode) (zero : α)
    (coef old : Vector α 640) : Vector α 640 :=
  vgen 640 fun i =>
    if i < m.nv then (if bad then vget old i else vget coef i)
    else if i < m.blk then zero
    else vget coef i

/-- The coefficients `CONCEAL` retains (R412, R413): zero after a bad frame, the frame's after a good
one; above the coded regions `D.OLDCOEF` is untouched. -/
def concealOld {α : Type} [Inhabited α] (bad : Bool) (m : Mode) (zero : α)
    (coef old : Vector α 640) : Vector α 640 :=
  vfill old m.nv fun i => if bad then zero else vget coef i

/-- Entering concealment (R412 to R414), the TCE's trap: a frame with a flag in `W.FERR` gets the
retained coefficients and shift, the retained memory is cleared and the generator restored; a good
frame is retained. There is no handler and nothing to return to: the sequence goes on (R415). -/
def enterConceal (s : State) : State :=
  let bad : Bool := s.w.ferr ≠ 0#4
  let m := s.d.mode
  let b := s.build.backend
  let fzero := Config.fOfInt 0
  let s1 := s.setW { s.w with
    coef := s.w.coef.put b (concealCoef bad m 0#16 s.w.coef.fx s.d.oldcoef.fx)
      (concealCoef bad m fzero s.w.coef.fl s.d.oldcoef.fl)
    magsh := if bad then s.d.oldshift else s.w.magsh }
  s1.setD { s.d with
    rand := if bad then s.w.randsnap else s.d.rand
    oldcoef := s.d.oldcoef.put b (concealOld bad m 0#16 s.w.coef.fx s.d.oldcoef.fx)
      (concealOld bad m fzero s.w.coef.fl s.d.oldcoef.fl)
    oldshift := if bad then 0#16 else s.w.magsh }

end Sys2Proof.Machine
end

