-- ==== Sys2Proof/Machine/Bitstream.lean ====
section
/-! DEFINITION. The bitstream engine (41_bitstream.md): the packer operations over `E.BW` and `BSBUF`,
the unpacker operations over `D.BR`, and the meanings of `BS_PUT`, `BS_GET`, `BS_FLUSH`, `BS_WINIT`,
`BS_RINIT`. -/

namespace Sys2Proof.Machine

/-! ## Packer -/

/-- The loop `while RES >= 8` of R182, `k` times: the oldest eight pending bits go to `BSBUF[PTR]`. -/
def drain : Nat → BitWriter → List Host.Cell → BitWriter × List Host.Cell
  | 0, bw, m => (bw, m)
  | k + 1, bw, m =>
    let r := bw.res - 8
    drain k { bw with res := r, ptr := bw.ptr + 1 }
      (Memory.write (w := 8) m bw.ptr ((bw.acc >>> r).setWidth 8))

/-- `BS_PUT` for `nbits <= 24` (R182): the low `nbits` bits of `value` join the accumulator, then full
bytes are written. -/
def putNarrow (value : Word) (nbits : Nat) (bw : BitWriter) (m : List Host.Cell) :
    BitWriter × List Host.Cell :=
  let v := BitVec.ofNat 32 (value.toNat % 2 ^ nbits)
  drain ((bw.res + nbits) / 8) { bw with acc := (bw.acc <<< nbits) ||| v, res := bw.res + nbits } m

/-- `BS_PUT` for 1 to 32 bits: wider fields are split (R183). -/
def putField (value : Word) (nbits : Nat) (bw : BitWriter) (m : List Host.Cell) :
    BitWriter × List Host.Cell :=
  if nbits ≤ 24 then putNarrow value nbits bw m
  else
    let p := putNarrow (value >>> 8) (nbits - 8) bw m
    putNarrow value 8 p.1 p.2

/-- `BS_PUT(b, 1)` for each bit of a string in order (47_frame_commands.md R374). -/
def putBits : List Bool → BitWriter → List Host.Cell → BitWriter × List Host.Cell
  | [], bw, m => (bw, m)
  | b :: bs, bw, m =>
    let p := putField (if b then 1#32 else 0#32) 1 bw m
    putBits bs p.1 p.2

/-- `BS_FLUSH` (R184). -/
def flushBits (bw : BitWriter) (m : List Host.Cell) : BitWriter × List Host.Cell :=
  if bw.res > 0 then
    ({ bw with res := 0, ptr := bw.ptr + 1 },
      Memory.write (w := 8) m bw.ptr ((bw.acc <<< (8 - bw.res)).setWidth 8))
  else (bw, m)

/-- How many bytes `n` more bits write (R182). -/
def bytesOf (bw : BitWriter) (n : Nat) : Nat := (bw.res + n) / 8

/-- Are the next `k` bytes of the packer inside `BSBUF`? (20_memory.md R81) -/
def roomFor (s : State) (k : Nat) : Bool := k == 0 || decide (s.e.bw.ptr + k ≤ bsCap s)

/-- The state after the packer wrote: the cursor in `E.BW`, the bytes in `BSBUF`. -/
def State.afterPut (s : State) (p : BitWriter × List Host.Cell) : State :=
  (s.setE { s.e with bw := p.1 }).setBs p.2

/-- The fault of a packer write past the end of `BSBUF`: the first byte outside. -/
def packerFault (s : State) : Fault := .bsCapacity (max s.e.bw.ptr (bsCap s))

/-! ## Unpacker -/

/-- The loop `while RES < nbits` of R187, at most `fuel` times; it ends after at most 3 for
`nbits <= 24`. -/
def refill (rd : Nat → Except Fault Byte) (nbits : Nat) : Nat → BitReader → Except Fault BitReader
  | 0, br => .ok br
  | fuel + 1, br =>
    if br.res < nbits then
      match rd br.ptr with
      | .error f => .error f
      | .ok b => refill rd nbits fuel
          { br with acc := (br.acc <<< 8) ||| b.setWidth 32, ptr := br.ptr + 1, res := br.res + 8 }
    else .ok br

/-- `BS_GET` for `nbits <= 24` (R187). -/
def getNarrow (rd : Nat → Except Fault Byte) (nbits : Nat) (br : BitReader) :
    Except Fault (Word × BitReader) :=
  match refill rd nbits nbits br with
  | .error f => .error f
  | .ok br1 =>
    let r := br1.res - nbits
    .ok (BitVec.ofNat 32 ((br1.acc >>> r).toNat % 2 ^ nbits), { br1 with res := r })

/-- `BS_GET` for 1 to 32 bits: wider reads are split (R188). -/
def getField (rd : Nat → Except Fault Byte) (nbits : Nat) (br : BitReader) :
    Except Fault (Word × BitReader) :=
  if nbits ≤ 24 then getNarrow rd nbits br
  else
    match getNarrow rd 24 br with
    | .error f => .error f
    | .ok (hi, br1) =>
      match getNarrow rd (nbits - 24) br1 with
      | .error f => .error f
      | .ok (lo, br2) => .ok ((hi <<< (nbits - 24)) ||| lo, br2)

/-- `GETBIT()` (R190): `none` is `EXHAUSTED`, which changes nothing. -/
def getBit (rd : Nat → Except Fault Byte) (br : BitReader) :
    Except Fault (Option Bool × BitReader) :=
  if br.rem ≤ 0 then .ok (none, br)
  else
    match getField rd 1 { br with rem := br.rem - 1 } with
    | .error f => .error f
    | .ok (v, br1) => .ok (some (v.getLsbD 0), br1)

/-- `GETBITS(n)` (R190): the bits in order, or `EXHAUSTED` as soon as one read is. -/
def getBits (rd : Nat → Except Fault Byte) : Nat → BitReader →
    Except Fault (Option (List Bool) × BitReader)
  | 0, br => .ok (some [], br)
  | n + 1, br =>
    match getBit rd br with
    | .error f => .error f
    | .ok (none, br1) => .ok (none, br1)
    | .ok (some b, br1) =>
      match getBits rd n br1 with
      | .error f => .error f
      | .ok (none, br2) => .ok (none, br2)
      | .ok (some bs, br2) => .ok (some (b :: bs), br2)

/-- The walk of a decode tree from node `n` (30_encoding.md R116): the leaf's symbol, or `EXHAUSTED`.
Each pass takes one of the frame's remaining bits, so `REM + 1` passes are enough for every tree. -/
def walkFrom (rd : Nat → Except Fault Byte) (tree : Nat → TreeNode) : Nat → Nat → BitReader →
    Except Fault (Option Nat × BitReader)
  | 0, _, br => .ok (none, br)
  | fuel + 1, n, br =>
    match getBit rd br with
    | .error f => .error f
    | .ok (none, br1) => .ok (none, br1)
    | .ok (some b, br1) =>
      let t := (tree n).next b
      if t ≤ 0 then .ok (some (-t).toNat, br1) else walkFrom rd tree fuel t.toNat br1

/-- `walk(T)` (R116), from the root. -/
def walkTree (rd : Nat → Except Fault Byte) (tree : Nat → TreeNode) (br : BitReader) :
    Except Fault (Option Nat × BitReader) :=
  walkFrom rd tree (br.rem.toNat + 1) 0 br

/-! ## Meanings -/

/-- `BS_PUT(value, nbits)` (R182, R183), operands in the micro-operation port. Another `nbits` than 1..32 is
not an operation. -/
def execBsPut (s : State) : Result :=
  if 1 ≤ s.port.nbits ∧ s.port.nbits ≤ 32 then
    if roomFor s (bytesOf s.e.bw s.port.nbits) then
      .next (s.afterPut (putField s.port.value s.port.nbits s.e.bw s.bs))
    else .fault (packerFault s)
  else .refused (.fieldWidth s.port.nbits)

/-- `BS_GET(nbits)` (R187, R188), operand and result in the micro-operation port. It does not touch
`D.BR.REM`. -/
def execBsGet (s : State) : Result :=
  if 1 ≤ s.port.nbits ∧ s.port.nbits ≤ 32 then
    match getField (readBs s) s.port.nbits s.d.br with
    | .error f => .fault f
    | .ok (v, br) => .next ((s.setD { s.d with br := br }).setPort { s.port with result := v })
  else .refused (.fieldWidth s.port.nbits)

/-- `BS_FLUSH()` (R184). -/
def execBsFlush (s : State) : Result :=
  if roomFor s (if s.e.bw.res > 0 then 1 else 0) then .next (s.afterPut (flushBits s.e.bw s.bs))
  else .fault (packerFault s)

/-- `BS_WINIT(f)` (R185), `f` in `SEQ.FRAME`. -/
def execBsWinit (s : State) : Result :=
  .next (s.setE { s.e with bw := { acc := 0#32, res := 0, ptr := s.seq.frame * encBypf s } })

/-- `BS_RINIT(f)` (R189), `f` in `SEQ.FRAME`. -/
def execBsRinit (s : State) : Result :=
  .next (s.setD { s.d with
    br := { acc := 0#32, res := 0, ptr := s.seq.frame * decBypf s, rem := decBpf s } })

end Sys2Proof.Machine
end

