-- ==== Sys2Proof/Machine/RegionPower.lean ====
section
/-! DEFINITION. The region power estimator and the envelope coder (44_region_power.md): the meanings of
`PWR_EST`, `PWR_ADJ`, `PWR_ENC`, `PWR_DEC` and `SD_SHIFT`. -/

namespace Sys2Proof.Machine

/-! ## Estimation -/

/-- The sum of squares of a region (R272): `lmac0` over its 20 coefficients. -/
def energyFixed (coef : Nat → I16) (r : Nat) : I32 :=
  (List.range regionSize).foldl
    (fun acc j => lmac0 acc (coef (20 * r + j)) (coef (20 * r + j))) 0#32

/-- The first loop of R272, at most `fuel` times: 31 bits come down to 16. -/
def bringDown : Nat → I32 → Int → I32 × Int
  | 0, acc, ps => (acc, ps)
  | fuel + 1, acc, ps =>
    if acc &&& 0x7FFF0000#32 ≠ 0#32 then bringDown fuel (shr32 acc 1) (ps + 1) else (acc, ps)

/-- The second loop of R272, at most `fuel` times: bit 15 is reached, or `ps = -16`. -/
def bringUp : Nat → I32 → Int → I32 × Int
  | 0, acc, ps => (acc, ps)
  | fuel + 1, acc, ps =>
    if acc.toInt ≤ 32767 ∧ ps + 15 ≥ 0 then bringUp fuel (shl32 acc 1) (ps - 1) else (acc, ps)

/-- `ps` of R272 from the sum of squares: 15 passes are enough for the first loop and 31 for the second
(the sum is below 2^31). -/
def powerScale (energy : I32) : Int :=
  let d := bringDown 15 energy 0
  let u := bringUp 31 d.1 d.2
  if (shr32 u.1 1).toInt ≥ 28963 then u.2 + 1 else u.2

/-- The raw index of a region in `FIXED` (R273). -/
def rawIndexFixed (coef : Nat → I16) (magsh : I16) (r : Nat) : I16 :=
  toI16 (powerScale (energyFixed coef r) - 2 * magsh.toInt + 35 - numNeg)

/-- The mean square of a region in `FLOAT` (R274). -/
def meanSquare (coef : Nat → FVal) (r : Nat) : FVal :=
  Config.fDiv
    ((List.range regionSize).foldl
      (fun acc j => Config.fAdd acc (Config.fMul (coef (20 * r + j)) (coef (20 * r + j))))
      (Config.fOfInt 0))
    (Config.fOfInt 20)

/-- The binary search of R274 over `PWR_BOUND`. -/
def boundSearch (bound : Nat → FVal) (ms : FVal) : Nat → Nat → Nat → Nat
  | 0, lo, _ => lo
  | k + 1, lo, hi =>
    let mid := (lo + hi) / 2
    if Config.fLt ms (bound (mid - 1)) then boundSearch bound ms k lo mid
    else boundSearch bound ms k mid hi

/-- The raw index of a region in `FLOAT` (R274). -/
def rawIndexFloat (rom : Rom) (coef : Nat → FVal) (r : Nat) : I16 :=
  toI16 (boundSearch (vget rom.floatOnly.pwrBound) (meanSquare coef r) 6 0 64 - numNeg)

/-- `PWR_EST` (R271 to R274): `W.ABS[0..NREG-1]`. -/
def execPwrEst (s : State) : Result :=
  let raw : Nat → I16 := match s.build.backend with
    | .fixed => rawIndexFixed (vget s.w.coef.fx) s.w.magsh
    | .float => rawIndexFloat s.build.rom (vget s.w.coef.fl)
  .next (s.setW { s.w with abs := vfill s.w.abs s.e.mode.nreg raw })

/-! ## Adjustment and symbols -/

/-- The valley raise (R276): from high frequency to low, an index is raised to its (raised) upper
neighbour less `DRP_MAX`. -/
def valleyRaise : List Int → List Int
  | [] => []
  | a :: l =>
    match valleyRaise l with
    | [] => [a]
    | b :: m => max a (b - drpMax) :: b :: m

/-- The clamps (R277): region 0 into -8..22, the others into -17..22. -/
def clampIndices : List Int → List Int
  | [] => []
  | a :: l => clampInt a (1 - esfAdj) (31 - esfAdj) ::
      l.map fun x => clampInt x (-8 - esfAdj) (31 - esfAdj)

/-- The differential symbols of R278 after an index `prev`: pairs of the symbol and the index the decoder
will reconstruct, which the next difference uses. -/
def diffCode (prev : Int) : List Int → List (Int × Int)
  | [] => []
  | a :: l =>
    let sym := max (a - prev) drpMin - drpMin
    (sym, prev + sym + drpMin) :: diffCode (prev + sym + drpMin) l

/-- The symbols of a whole envelope (R278). -/
def envelopeSymbols : List Int → List (Int × Int)
  | [] => []
  | a :: l => (a + esfAdj, a) :: diffCode a l

/-- `PWR_ADJ` on the list of indices: raise, clamp, code (R276 to R278). -/
def adjustIndices (l : List Int) : List (Int × Int) := envelopeSymbols (clampIndices (valleyRaise l))

/-- The first `n` power indices as integers. -/
def absList (w : WorkRegs) (n : Nat) : List Int := (List.range n).map fun r => (vget w.abs r).toInt

/-- `PWR_ADJ` (R276 to R278): `W.ABS` and `W.SYM`. -/
def execPwrAdj (s : State) : Result :=
  let n := s.e.mode.nreg
  let p := adjustIndices (absList s.w n)
  .next (s.setW { s.w with
    abs := vfill s.w.abs n fun r => toI16 (lget p r).2
    sym := vfill s.w.sym n fun r => Fin.ofNat 32 (lget p r).1.toNat })

/-! ## Envelope coding -/

/-- The envelope bit string of R280: `P0` in 5 bits, then one code per region from 1 on. -/
def envelopeBits (rom : Rom) (sym : Nat → Nat) (n : Nat) : List Bool :=
  bitsOf (sym 0) 5 ++ (List.range (n - 1)).flatMap fun r => drpCodeBits rom (r + 1) (sym (r + 1))

/-- `W.ENVBITS` of R280: 5 and the code lengths. -/
def envelopeLength (rom : Rom) (sym : Nat → Nat) (n : Nat) : Nat :=
  5 + ((List.range (n - 1)).map fun r => vget (vget rom.drpLen (r + 1)) (sym (r + 1))).sum

/-- `PWR_ENC` (R280): `W.ENV` and `W.ENVBITS`. -/
def execPwrEnc (s : State) : Result :=
  let sym := fun r => (vget s.w.sym r).val
  let n := s.e.mode.nreg
  .next (s.setW { s.w with
    env := envelopeBits s.build.rom sym n
    envbits := envelopeLength s.build.rom sym n })

/-! ## Reconstruction -/

/-- The region loop of R283 for `k` regions from `r` on: the decoded indices, and whether the frame's bits
lasted. -/
def decodeDeltas (rd : Nat → Except Fault Byte) (rom : Rom) :
    Nat → Nat → Vector I16 28 → BitReader → Except Fault (Bool × Vector I16 28 × BitReader)
  | 0, _, abs, br => .ok (true, abs, br)
  | k + 1, r, abs, br =>
    match walkTree rd (drpTreeAt rom r) br with
    | .error f => .error f
    | .ok (none, br1) => .ok (false, abs, br1)
    | .ok (some j, br1) =>
      decodeDeltas rd rom k (r + 1)
        (vset abs r (toI16 ((vget abs (r - 1)).toInt + j + drpMin))) br1

/-- What `PWR_DEC` leaves in `W` when the header is exhausted (R285). -/
def headerExhausted (w : WorkRegs) (abs : Vector I16 28) : WorkRegs :=
  { w with abs := abs, ferr := ferrSetIf true ferrOverrun w.ferr }

/-- The header of a frame (R283, R285): fields `P0`, `DRP` and `CC`. -/
def readHeader (rd : Nat → Except Fault Byte) (rom : Rom) (m : Mode) (w : WorkRegs) (br : BitReader) :
    Except Fault (WorkRegs × BitReader) :=
  match getBits rd 5 br with
  | .error f => .error f
  | .ok (none, br1) => .ok (headerExhausted w w.abs, br1)
  | .ok (some p0, br1) =>
    match decodeDeltas rd rom (m.nreg - 1) 1 (vset w.abs 0 (toI16 (natOfBits p0 - esfAdj))) br1 with
    | .error f => .error f
    | .ok (false, abs, br2) => .ok (headerExhausted w abs, br2)
    | .ok (true, abs, br2) =>
      match getBits rd m.ccbits br2 with
      | .error f => .error f
      | .ok (none, br3) => .ok (headerExhausted w abs, br3)
      | .ok (some cc, br3) => .ok ({ w with abs := abs, catctl := Fin.ofNat 32 (natOfBits cc) }, br3)

/-- `PWR_DEC` (R283, R285): `W.ABS`, `W.CATCTL`, `D.BR`, and `W.FERR.OVERRUN` on exhaustion. -/
def execPwrDec (s : State) : Result :=
  match readHeader (readBs s) s.build.rom s.d.mode s.w s.d.br with
  | .error f => .fault f
  | .ok (w, br) => .next ((s.setW w).setD { s.d with br := br })

/-- The loop of R287, at most `fuel` times; it ends after 10. -/
def shiftLoop : Nat → Int → Int → Int → Int
  | 0, m, _, _ => m
  | fuel + 1, m, temp, maxi =>
    if m ≥ 0 ∧ (temp ≥ 8 ∨ maxi > 28) then shiftLoop fuel (m - 1) (temp / 2) (maxi - 2) else m

/-- The row of a power table for an index and a magnitude shift (R287, R288). -/
def powerRow (abs : I16) (magsh : Int) : Nat := tableRow (abs.toInt + numNeg + 2 * magsh)

/-- The decoder's magnitude shift in `FIXED` (R287). -/
def decoderShift (sd : Nat → I16) (abs : Nat → I16) (n : Nat) : Int :=
  let temp := (List.range n).foldl (fun t r => add16 t (sd (powerRow (abs r) 0))) 0#16
  let maxi := (List.range n).foldl (fun m r => max m (powerRow (abs r) 0)) 0
  shiftLoop 10 9 temp.toInt maxi

/-- `SD_SHIFT` (R287 in `FIXED`, R288 in `FLOAT`): `W.MAGSH` and `W.SD`. -/
def execSdShift (s : State) : Result :=
  let n := s.d.mode.nreg
  let abs := vget s.w.abs
  let m : Int := match s.build.backend with
    | .fixed => decoderShift (vget s.build.rom.i16.sd) abs n
    | .float => 0
  .next (s.setW { s.w with
    magsh := toI16 m
    sd := s.w.sd.put s.build.backend
      (vfill s.w.sd.fx n fun r => vget s.build.rom.i16.sd (powerRow (abs r) m))
      (vfill s.w.sd.fl n fun r => vget s.build.rom.flt.sd (powerRow (abs r) 0)) })

end Sys2Proof.Machine
end

