-- ==== Sys2Proof/Machine/VectorQuantizer.lean ====
section
/-! DEFINITION. The Huffman vector quantizer, the inverse quantizer, noise fill and the pseudo-random
generator (46_vector_quantizer.md): the meanings of `VQ_ENC`, `VQ_DEC`, `NOISE_FILL` and `RAND`. -/

namespace Sys2Proof.Machine

/-! ## Encoder -/

/-- The reciprocal `Q` of R322 (`FIXED`, Q17): an integer, not narrowed. -/
def quantStep (rom : Rom) (c row : Nat) : Int :=
  ((vget rom.i16.stepInv c).toInt * (vget rom.i16.sdInv row).toInt + 4096) / 8192

/-- The bin of a coefficient before the clamp, in `FIXED` (R322). -/
def binFixed (rom : Rom) (c row : Nat) (x : I16) : Nat :=
  ((|x.toInt| * quantStep rom c row + vget rom.fixedOnly.dz c) / 131072).toNat

/-- The bin of a coefficient in `FLOAT` (R327), clamped: a value at or above `KMAX + 1`, an infinite one
included, gives `KMAX`. DESIGN CHOICE (safe): R327 names no operation for that comparison; here it is `<_F` with
`toF(KMAX + 1)`, as R215 compares two `F` values (log entry 30). -/
def binFloat (rom : Rom) (c row : Nat) (x : FVal) : Nat :=
  let q := Config.fMul (vget rom.flt.stepInv c) (vget rom.flt.sdInv row)
  let v := Config.fAdd (Config.fMul (Config.fAbs x) q) (vget rom.floatOnly.dz c)
  let kmax := vget rom.kmax c
  if Config.fLt v (Config.fOfInt (kmax + 1)) then (Config.fFloor v).toNat else kmax

/-- The bin and the sign of a coefficient: the bin clamped to `KMAX` (R325), and whether the unclamped bin
is not 0, with the sign bit then sent (R322). -/
def quantElem (b : Build) (coef : SigReg 640) (row c pos : Nat) : Nat × List Bool :=
  let kmax := vget b.rom.kmax c
  match b.backend with
  | .fixed =>
    let x := vget coef.fx pos
    let k := binFixed b.rom c row x
    (min k kmax, if k ≠ 0 then [decide (x.toInt > 0)] else [])
  | .float =>
    let x := vget coef.fl pos
    let k := binFloat b.rom c row x
    (min k kmax, if k ≠ 0 then [Config.fLt (Config.fOfInt 0) x] else [])

/-- The composite index of the bins of a vector, first element most significant (R322; 30_encoding.md
R115). -/
def composite (base : Nat) (ks : List Nat) : Nat := ks.foldl (fun i k => i * base + k) 0

/-- The code of one vector and its sign bits (R322). -/
def vectorBits (b : Build) (coef : SigReg 640) (row c start : Nat) : List Bool :=
  let elems := (List.range (vget b.rom.vdim c)).map fun j => quantElem b coef row c (start + j)
  vqCodeBits b.rom c (composite (vget b.rom.kmax c + 1) (elems.map Prod.fst)) ++
    (elems.map Prod.snd).flatten

/-- `VQ_ENC(r, c)` (R322, R327) as a function of the coefficients and the table rows. -/
def regionBits (b : Build) (coef : SigReg 640) (idxq : Nat → Nat) (r c : Nat) : List Bool :=
  if c = 7 then []
  else (List.range (vget b.rom.nvec c)).flatMap fun n =>
    vectorBits b coef (idxq r) c (20 * r + n * vget b.rom.vdim c)

/-- `VQ_ENC` run by itself: region `SEQ.REGION`, category `W.CAT` of it, the string into `W.RBITS` (log
entry 20). -/
def execVqEnc (s : State) : Result :=
  let r := s.seq.region.val
  .next (s.setW { s.w with
    rbits := vset s.w.rbits r
      (regionBits s.build s.w.coef (fun q => (vget s.w.idxq q).val) r (vget s.w.cat r).val) })

/-! ## Decoder -/

/-- `decompose` of R335 on the elements still to find, last element first: `p`, the digits found so far,
`nz`. -/
def decomposeFrom (kinv base : Nat) : Nat → Nat → List Nat → Nat → List Nat × Nat
  | 0, _, ks, nz => (ks, nz)
  | j + 1, p, ks, nz =>
    let q := p * kinv / 32768
    let k := p - q * base
    decomposeFrom kinv base j q (k :: ks) (if k ≠ 0 then nz + 1 else nz)

/-- `decompose(index, c)` (R335): the bins, and how many are not 0. -/
def decompose (rom : Rom) (index c : Nat) : List Nat × Nat :=
  decomposeFrom (vget rom.kinv c) (vget rom.kmax c + 1) (vget rom.vdim c) index [] 0

/-- `dequant(r, c, k)` in `FIXED` (R336): the product shifted, then its low 16 bits. -/
def dequantFixed (rom : Rom) (sd : I16) (c k : Nat) : I16 :=
  toI16 (sd.toInt * (vget (vget rom.i16.centroid c) k).toInt / 4096)

/-- `dequant(r, c, k)` in `FLOAT` (R336). -/
def dequantFloat (rom : Rom) (sd : FVal) (c k : Nat) : FVal :=
  Config.fMul sd (vget (vget rom.flt.centroid c) k)

/-- The values of one vector (R332): each bin dequantized, negated when its sign bit is 0; a bin of 0 takes
no sign bit. -/
def signedValues {α : Type} (deq : Nat → α) (neg : α → α) : List Nat → List Bool → List α
  | [], _ => []
  | k :: ks, signs =>
    if k ≠ 0 then
      (if signs.headD false then deq k else neg (deq k)) :: signedValues deq neg ks signs.tail
    else deq k :: signedValues deq neg ks signs

/-- `W.COEF[pos], W.COEF[pos+1], ...` from a list. -/
def storeFrom {α : Type} (v : Vector α 640) (pos : Nat) : List α → Vector α 640
  | [] => v
  | x :: xs => storeFrom (vset v pos x) (pos + 1) xs

/-- One vector's values into `W.COEF` (R332). -/
def storeVector (b : Build) (sd : SigReg 28) (r c pos : Nat) (ks : List Nat) (signs : List Bool)
    (coef : SigReg 640) : SigReg 640 :=
  coef.put b.backend
    (storeFrom coef.fx pos (signedValues (dequantFixed b.rom (vget sd.fx r) c) neg16 ks signs))
    (storeFrom coef.fl pos (signedValues (dequantFloat b.rom (vget sd.fl r) c) Config.fNeg ks signs))

/-- The vector loop of R332 for `k` vectors from `pos` on: whether every vector was decoded, the
coefficients, the cursor. -/
def decodeVectors (rd : Nat → Except Fault Byte) (b : Build) (sd : SigReg 28) (r c : Nat) :
    Nat → Nat → SigReg 640 → BitReader → Except Fault (Bool × SigReg 640 × BitReader)
  | 0, _, coef, br => .ok (true, coef, br)
  | k + 1, pos, coef, br =>
    match walkTree rd (vqTreeAt b.rom c) br with
    | .error f => .error f
    | .ok (none, br1) => .ok (false, coef, br1)
    | .ok (some index, br1) =>
      let p := decompose b.rom index c
      if br1.rem - p.2 < 0 then .ok (false, coef, br1)
      else
        match getBits rd p.2 br1 with
        | .error f => .error f
        | .ok (none, br2) => .ok (false, coef, br2)
        | .ok (some signs, br2) =>
          decodeVectors rd b sd r c k (pos + vget b.rom.vdim c)
            (storeVector b sd r c pos p.1 signs coef) br2

/-- The underrun exit (R341): the flag, category 7 for this region and the later ones, and the cursor's
`REM` -1. -/
def underrunRegs (w : WorkRegs) (r n : Nat) : WorkRegs :=
  { w with underrun := true, cat := vfillFrom w.cat r n fun _ => 7 }

/-- `VQ_DEC` (R332, R341) for region `SEQ.REGION`. -/
def execVqDec (s : State) : Result :=
  let r := s.seq.region.val
  let c := (vget s.w.cat r).val
  if c = 7 then .next s
  else
    match decodeVectors (readBs s) s.build s.w.sd r c (vget s.build.rom.nvec c) (20 * r) s.w.coef
        s.d.br with
    | .error f => .fault f
    | .ok (true, coef, br) => .next ((s.setW { s.w with coef := coef }).setD { s.d with br := br })
    | .ok (false, coef, br) =>
      .next ((s.setW (underrunRegs { s.w with coef := coef } r s.d.mode.nreg)).setD
        { s.d with br := { br with rem := -1 } })

/-! ## Noise -/

/-- One draw of the generator (R345): the word and the shifted state. -/
def randDraw (g : Vector (BitVec 16) 4) : BitVec 16 × Vector (BitVec 16) 4 :=
  let w := vget g 0 + vget g 3
  (w, vgen 4 fun i => if i = 0 then w else vget g (i - 1))

/-- `RAND` (R345) run by itself: the draw's word goes to the micro-operation port. -/
def execRand (s : State) : Result :=
  let p := randDraw s.d.rand
  .next ((s.setD { s.d with rand := p.2 }).setPort { s.port with result := p.1.setWidth 32 })

/-- The inner loop of R343 over `k` coefficients from `p` on: a bit of `w` is used up for each coefficient
that is filled. -/
def fillRun {α : Type} [Inhabited α] (all : Bool) (isZero : α → Bool) (amp namp : α) :
    Nat → Nat → BitVec 16 → Vector α 640 → Vector α 640
  | 0, _, _, v => v
  | k + 1, p, w, v =>
    if all || isZero (vget v p) then
      fillRun all isZero amp namp k (p + 1) (w >>> 1) (vset v p (if w.getLsbD 0 then amp else namp))
    else fillRun all isZero amp namp k (p + 1) w v

/-- The two halves of R343 with their draws `w0`, `w1`. -/
def fillRegion {α : Type} [Inhabited α] (all : Bool) (isZero : α → Bool) (amp namp : α) (r : Nat)
    (w0 w1 : BitVec 16) (v : Vector α 640) : Vector α 640 :=
  fillRun all isZero amp namp 10 (20 * r + 10) w1 (fillRun all isZero amp namp 10 (20 * r) w0 v)

/-- The region's coefficients after noise fill (R343). -/
def noiseCoef (b : Build) (sd : SigReg 28) (r c : Nat) (w0 w1 : BitVec 16) (coef : SigReg 640) :
    SigReg 640 :=
  let ampX := mult16 (vget sd.fx r) (vget b.rom.i16.noise (c - 5))
  let ampF := Config.fMul (vget sd.fl r) (vget b.rom.flt.noise (c - 5))
  coef.put b.backend
    (fillRegion (c == 7) (fun x => x == 0#16) ampX (neg16 ampX) r w0 w1 coef.fx)
    (fillRegion (c == 7) (fun x => Config.fEq x (Config.fOfInt 0)) ampF (Config.fNeg ampF) r w0 w1
      coef.fl)

/-- `NOISE_FILL` (R343) for region `SEQ.REGION`: nothing below category 5; else two draws and the fill. -/
def execNoiseFill (s : State) : Result :=
  let r := s.seq.region.val
  let c := (vget s.w.cat r).val
  if c < 5 then .next s
  else
    let p0 := randDraw s.d.rand
    let p1 := randDraw p0.2
    .next ((s.setW { s.w with coef := noiseCoef s.build s.w.sd r c p0.1 p1.1 s.w.coef }).setD
      { s.d with rand := p1.2 })

end Sys2Proof.Machine
end

