-- ==== Sys2Proof/Machine/Categorization.lean ====
section
/-! DEFINITION. Bit allocation (45_categorization.md): the meanings of `CATEGORIZE`, `CAT_REPLAY` and
`RATE_ADJ`. Integers only, the same in both backends. -/

namespace Sys2Proof.Machine

/-! ## Budget and offset search -/

/-- The budget `B` of R302. -/
def budgetOf (m : Mode) (avail : Int) : Int :=
  let t : Int := m.thresh
  if avail > t then (avail - t) * 5 / 8 + t else avail

/-- `rawcat(t, r)` of R303. -/
def rawCat (abs : Nat → Int) (t : Int) (r : Nat) : Nat := (clampInt ((t - abs r) / 2) 0 7).toNat

/-- `E(t)` of R303. -/
def expectedBits (expbits : Nat → Nat) (abs : Nat → Int) (n : Nat) (t : Int) : Int :=
  (((List.range n).map fun r => expbits (rawCat abs t r)).sum : Nat)

/-- The six steps of R304, `delta` from 32 down to 1. -/
def offsetSearch (e : Int → Int) (b : Int) : Int :=
  [32, 16, 8, 4, 2, 1].foldl (fun ans delta => if e (ans + delta) ≥ b - 32 then ans + delta else ans)
    (-32)

/-! ## Rebalance -/

/-- The two assignments, the two running totals and the balance entries of R305, R306. `bal` is the used
part of the scratch list `tmp`: promotions are put in front, demotions behind. -/
structure Rebalance where
  mx : List Nat
  mn : List Nat
  emax : Int
  emin : Int
  bal : List Nat
deriving DecidableEq, Repr, Inhabited

/-- `t(r)` of R307 and R308 for a category `c`. -/
def slack (offset : Int) (abs : Nat → Int) (r c : Nat) : Int := offset - abs r - 2 * c

/-- The scan of R307: the smallest `t(r)` below 99 among regions with a category above 0, the lowest region
in a tie; 0 if there is none. -/
def promoteChoice (offset : Int) (abs : Nat → Int) (n : Nat) (cat : List Nat) : Nat :=
  ((List.range n).foldl
    (fun (p : Int × Nat) r =>
      if lget cat r > 0 then
        let t := slack offset abs r (lget cat r)
        if t < p.1 then (t, r) else p
      else p) (99, 0)).2

/-- The scan of R308: the largest `t(r)` above -99 among regions with a category below 7, the highest region
in a tie; 0 if there is none. -/
def demoteChoice (offset : Int) (abs : Nat → Int) (n : Nat) (cat : List Nat) : Nat :=
  ((List.range n).foldr
    (fun r (p : Int × Nat) =>
      if lget cat r < 7 then
        let t := slack offset abs r (lget cat r)
        if t > p.1 then (t, r) else p
      else p) (-99, 0)).2

/-- The promote step (R307). -/
def promote (expbits : Nat → Nat) (idx : Nat) (q : Rebalance) : Rebalance :=
  let c := lget q.mx idx
  let q1 := { q with bal := idx :: q.bal }
  if c > 0 then
    { q1 with mx := q.mx.set idx (c - 1), emax := q.emax - expbits c + expbits (c - 1) }
  else q1

/-- The demote step (R308). -/
def demote (expbits : Nat → Nat) (idx : Nat) (q : Rebalance) : Rebalance :=
  let c := lget q.mn idx
  let q1 := { q with bal := q.bal ++ [idx] }
  if c < 7 then
    { q1 with mn := q.mn.set idx (c + 1), emin := q.emin - expbits c + expbits (c + 1) }
  else q1

/-- One step of the loop of R306. -/
def rebalanceStep (expbits : Nat → Nat) (offset b : Int) (abs : Nat → Int) (n : Nat) (q : Rebalance) :
    Rebalance :=
  if q.emax + q.emin ≤ 2 * b then promote expbits (promoteChoice offset abs n q.mx) q
  else demote expbits (demoteChoice offset abs n q.mn) q

/-- The loop of R306, `k` steps. -/
def rebalance (step : Rebalance → Rebalance) : Nat → Rebalance → Rebalance
  | 0, q => q
  | k + 1, q => rebalance step k (step q)

/-- The baseline of R305. -/
def baseline (expbits : Nat → Nat) (offset : Int) (abs : Nat → Int) (n : Nat) : Rebalance :=
  let cat := (List.range n).map (rawCat abs offset)
  let e := expectedBits expbits abs n offset
  { mx := cat, mn := cat, emax := e, emin := e, bal := [] }

/-- The outputs of `CATEGORIZE` (R301 to R309) as a function of its inputs: the offset and the final
assignments and balance entries. -/
def categorization (expbits : Nat → Nat) (m : Mode) (abs : Nat → Int) (avail : Int) : Int × Rebalance :=
  let b := budgetOf m avail
  let offset := offsetSearch (expectedBits expbits abs m.nreg) b
  (offset, rebalance (rebalanceStep expbits offset b abs m.nreg) (m.nposs - 1)
    (baseline expbits offset abs m.nreg))

/-- `CATEGORIZE` (R301, R309): `W.OFFSET`, `W.CAT0`, `W.BAL`, in the mode of the running command's context
(log entry 10). -/
def execCategorize (s : State) : Result :=
  let m := runMode s
  let p := categorization (vget s.build.rom.expbits) m (fun r => (vget s.w.abs r).toInt) s.w.avail
  .next (s.setW { s.w with
    offset := p.1
    cat0 := vfill s.w.cat0 m.nreg fun r => Fin.ofNat 8 (lget p.2.mx r)
    bal := vfill s.w.bal (m.nposs - 1) fun i => Fin.ofNat 28 (lget p.2.bal i) })

/-! ## Replay -/

/-- How many of the first `c` balance entries are region `r` (R310). -/
def replayCount (bal : Nat → Nat) (c r : Nat) : Nat := (List.range c).countP fun i => bal i == r

/-- `CATS(c)[r]` (R310, closed form). -/
def catsOf (cat0 bal : Nat → Nat) (c r : Nat) : Nat := min 7 (cat0 r + replayCount bal c r)

/-- `CATS(c)` over the registers `W.CAT0` and `W.BAL`, for regions below `n`; the others keep `W.CAT`. -/
def catsReg (w : WorkRegs) (n c : Nat) : Vector (Fin 8) 28 :=
  vfill w.cat n fun r =>
    Fin.ofNat 8 (catsOf (fun r => (vget w.cat0 r).val) (fun i => (vget w.bal i).val) c r)

/-- `CAT_REPLAY` (R310): `W.CAT <- CATS(W.CATCTL)`. -/
def execCatReplay (s : State) : Result :=
  .next (s.setW { s.w with cat := catsReg s.w s.d.mode.nreg s.w.catctl.val })

/-! ## The encoder's rate loop -/

/-- The control value, the categories, the coded regions and their total length in the loops of R312. -/
structure RateState where
  c : Nat
  cat : Vector (Fin 8) 28
  rbits : Vector (List Bool) 28
  total : Int
deriving DecidableEq, Repr, Inhabited

/-- Region `r` gets the category of control value `c` and is coded again (R312). -/
def recode (vq : Nat → Nat → List Bool) (cats : Nat → Nat → Nat) (c r : Nat) (q : RateState) : RateState :=
  let bits := vq r (cats c r)
  { c := c, cat := vset q.cat r (Fin.ofNat 8 (cats c r)), rbits := vset q.rbits r bits,
    total := q.total - (vget q.rbits r).length + bits.length }

/-- The first loop of R312, at most `fuel` times: finer while there is room. -/
def finer (vq : Nat → Nat → List Bool) (cats : Nat → Nat → Nat) (bal : Nat → Nat) (avail : Int) :
    Nat → RateState → RateState
  | 0, q => q
  | fuel + 1, q =>
    if q.total < avail ∧ q.c > 0 then
      finer vq cats bal avail fuel (recode vq cats (q.c - 1) (bal (q.c - 1)) q)
    else q

/-- The second loop of R312, at most `fuel` times: coarser while the frame is overfull. -/
def coarser (vq : Nat → Nat → List Bool) (cats : Nat → Nat → Nat) (bal : Nat → Nat) (avail : Int)
    (nposs : Nat) : Nat → RateState → RateState
  | 0, q => q
  | fuel + 1, q =>
    if q.total > avail ∧ q.c < nposs - 1 then
      coarser vq cats bal avail nposs fuel (recode vq cats (q.c + 1) (bal q.c) q)
    else q

/-- `RATE_ADJ` (R312): `W.IDXQ` first (46_vector_quantizer.md R323), then the two loops from the middle
control value, then `W.CATCTL`, `W.CAT`, `W.RBITS`. -/
def execRateAdj (s : State) : Result :=
  let m := s.e.mode
  let n := m.nreg
  let idxq := vfill s.w.idxq n fun r => Fin.ofNat 64 (powerRow (vget s.w.abs r) s.w.magsh.toInt)
  let vq := regionBits s.build s.w.coef (fun r => (vget idxq r).val)
  let bal := fun i => (vget s.w.bal i).val
  let cats := catsOf (fun r => (vget s.w.cat0 r).val) bal
  let c0 := m.nposs / 2 - 1
  let rbits := vfill s.w.rbits n fun r => vq r (cats c0 r)
  let q0 : RateState :=
    { c := c0, cat := catsReg s.w n c0, rbits := rbits,
      total := (((List.range n).map fun r => (vget rbits r).length).sum : Nat) }
  let q := coarser vq cats bal s.w.avail m.nposs m.nposs (finer vq cats bal s.w.avail m.nposs q0)
  .next (s.setW { s.w with
    idxq := idxq
    catctl := Fin.ofNat 32 q.c
    cat := q.cat
    rbits := q.rbits })

end Sys2Proof.Machine
end

