-- ==== Sys2Proof/Machine/Transform.lean ====
section
/-! DEFINITION. The transform engine (42_transform.md): the three parts of the fast Type-IV DCT over any
element type, their `FIXED` and `FLOAT` arithmetic, and the meanings of `DCT4_FWD` and `DCT4_INV`. -/

namespace Sys2Proof.Machine

variable {α : Type} {N : Nat}

/-! ## The three parts, over any element type -/

/-- Stage `s` of part (a) (R203), read at the output index `p`: set `t = p / span`; the low half of a set
holds the sums of consecutive pairs, the high half the differences in reverse order. -/
def butterfly [Inhabited α] (sum dif : Nat → α → α → α) (s : Nat) (x : Vector α N) : Vector α N :=
  vgen N fun p =>
    let span := N / 2 ^ s
    let base := p / span * span
    let o := p % span
    if o < span / 2 then sum o (vget x (base + 2 * o)) (vget x (base + 2 * o + 1))
    else
      let j := span - 1 - o
      dif j (vget x (base + 2 * j)) (vget x (base + 2 * j + 1))

/-- Part (a): stages `0, 1, ..., stages - 1` (R203). -/
def partA [Inhabited α] (sum dif : Nat → Nat → α → α → α) (stages : Nat) (x : Vector α N) :
    Vector α N :=
  (List.range stages).foldl (fun y s => butterfly (sum s) (dif s) s y) x

/-- Part (b): the 10 by 10 core on each group of 10 (R208, R214); `dot f` combines the ten products of
input `i` and matrix entry `C[i][k]`. -/
def partB [Inhabited α] (dot : (Nat → α) → (Nat → α) → α) (core : Nat → Nat → α) (x : Vector α N) :
    Vector α N :=
  vgen N fun p => dot (fun i => vget x (p / 10 * 10 + i)) (fun i => core i (p % 10))

/-- The four rotations of R209; `c` and `ms` come from the table, `l` and `h` from the two halves. -/
structure Rotations (α : Type) where
  le : α → α → α → α → α
  he : α → α → α → α → α
  lo : α → α → α → α → α
  ho : α → α → α → α → α

/-- Stage `s` of part (c) (R209), read at the output index `p`: element `j` of the low half of a set is
made from `in[base + j]`, `in[base + half + j]` and table entry `j`, by `LE` for even and `LO` for odd
`j`; element `span - 1 - j` from the same inputs by `HE` or `HO`. -/
def rotation [Inhabited α] (rot : Rotations α) (table : Nat → Nat → α × α) (s : Nat) (x : Vector α N) :
    Vector α N :=
  vgen N fun p =>
    let span := N / 2 ^ s
    let half := span / 2
    let base := p / span * span
    let o := p % span
    let low := o < half
    let j := if low then o else span - 1 - o
    let t := table span j
    let l := vget x (base + j)
    let h := vget x (base + half + j)
    if low then (if j % 2 = 0 then rot.le t.1 t.2 l h else rot.lo t.1 t.2 l h)
    else (if j % 2 = 0 then rot.he t.1 t.2 l h else rot.ho t.1 t.2 l h)

/-- Part (c): stages `stages - 1, ..., 1, 0` (R209). -/
def partC [Inhabited α] (rot : Rotations α) (table : Nat → Nat → α × α) (stages : Nat)
    (x : Vector α N) : Vector α N :=
  (List.range stages).foldr (fun s y => rotation rot table s y) x

/-! ## FIXED arithmetic -/

/-- `(a + b) >> 1` over the integers (R205). -/
def halfSum (a b : I16) : I16 := toI16 ((a.toInt + b.toInt) / 2)

/-- `(a - b) >> 1` over the integers (R205). -/
def halfDif (a b : I16) : I16 := toI16 ((a.toInt - b.toInt) / 2)

/-- `SUM` of the inverse (R206 for stage 0 with its dither, R207 for the others). -/
def invSum (dither : Nat → I16) (s j : Nat) (a b : I16) : I16 :=
  if s = 0 then halfSum (add16 a (dither (2 * j))) b else add16 a b

/-- `DIF` of the inverse (R206, R207). -/
def invDif (dither : Nat → I16) (s j : Nat) (a b : I16) : I16 :=
  if s = 0 then halfDif (add16 a (dither (2 * j + 1))) b else sub16 a b

/-- One output of the `FIXED` core (R208): `lmac` over `i` ascending, then `round16`. -/
def dotFixed (x c : Nat → I16) : I16 :=
  round16 ((List.range 10).foldl (fun acc i => lmac acc (x i) (c i)) 0#32)

/-- R210 -/
def rotFixed : Rotations I16 where
  le c ms l h := round16 (lmac (lmult c l) (neg16 ms) h)
  he c ms l h := round16 (lmac (lmult ms l) c h)
  lo c ms l h := round16 (lmac (lmult c l) ms h)
  ho c ms l h := round16 (lmac (lmult ms l) (neg16 c) h)

/-- `DCT4(FWD, m, x)` in `FIXED` (R201). -/
def dctFwdFixed (rom : Rom) (m : Mode) (x : Vector I16 N) : Vector I16 N :=
  partC rotFixed rom.i16.cosmsin (m.log - 1)
    (partB dotFixed (rom.i16.coreFwd m)
      (partA (fun _ _ => halfSum) (fun _ _ => halfDif) (m.log - 1) x))

/-- The narrowband post-correction (R211): nothing in `WB`. -/
def postCorrect (rom : Rom) (m : Mode) (y : Vector I16 N) : Vector I16 N :=
  match m with
  | .nb => vgen N fun i => toI16 (sat16 ((vget y i).toInt + (vget rom.fixedOnly.synBias i).toInt))
  | .wb => y

/-- `DCT4(INV, m, x)` in `FIXED` (R202). -/
def dctInvFixed (rom : Rom) (m : Mode) (x : Vector I16 N) : Vector I16 N :=
  postCorrect rom m
    (partC rotFixed rom.i16.cosmsin (m.log - 1)
      (partB dotFixed (rom.i16.coreInv m)
        (partA (invSum (rom.fixedOnly.dither m)) (invDif (rom.fixedOnly.dither m)) (m.log - 1) x)))

/-! ## FLOAT arithmetic -/

/-- One output of the `FLOAT` core (R214). -/
def dotFloat (x c : Nat → FVal) : FVal :=
  (List.range 10).foldl (fun acc i => Config.fAdd acc (Config.fMul (x i) (c i))) (Config.fOfInt 0)

/-- R214 -/
def rotFloat : Rotations FVal where
  le c ms l h := Config.fSub (Config.fMul c l) (Config.fMul ms h)
  he c ms l h := Config.fAdd (Config.fMul ms l) (Config.fMul c h)
  lo c ms l h := Config.fAdd (Config.fMul c l) (Config.fMul ms h)
  ho c ms l h := Config.fSub (Config.fMul ms l) (Config.fMul c h)

/-- The three parts in `FLOAT` (R213, R214), the same in both directions. -/
def dctFloat (rom : Rom) (core : Nat → Nat → FVal) (m : Mode) (x : Vector FVal N) : Vector FVal N :=
  partC rotFloat rom.flt.cosmsin (m.log - 1)
    (partB dotFloat core (partA (fun _ _ => Config.fAdd) (fun _ _ => Config.fSub) (m.log - 1) x))

/-- The rescale step (R217): every output times `K`. -/
def rescale (k : FVal) (y : Vector FVal N) : Vector FVal N := vgen N fun i => Config.fMul (vget y i) k

/-- `DCT4(FWD, m, x)` in `FLOAT` (R201, R217). -/
def dctFwdFloat (rom : Rom) (m : Mode) (x : Vector FVal N) : Vector FVal N :=
  rescale (rom.floatOnly.kFwd m) (dctFloat rom (rom.flt.coreFwd m) m x)

/-- `DCT4(INV, m, x)` in `FLOAT` (R202, R217). -/
def dctInvFloat (rom : Rom) (m : Mode) (x : Vector FVal N) : Vector FVal N :=
  rescale (rom.floatOnly.kInv m) (dctFloat rom (rom.flt.coreInv m) m x)

/-! ## Meanings -/

/-- Apply a transform of `BLK` elements to the used part of a signal register and write its result over
the used part of another. -/
def transformReg [Inhabited α] (m : Mode) (f : Vector α m.blk → Vector α m.blk)
    (src dst : Vector α 640) : Vector α 640 :=
  let y := f (vtake src m.blk)
  vfill dst m.blk fun i => vget y i

/-- `DCT4_FWD` (R201): `W.COEF[0..N-1] <- DCT4(FWD, E.MODE, W.X)`. -/
def execDct4Fwd (s : State) : Result :=
  let m := s.e.mode
  .next (s.setW { s.w with
    coef := s.w.coef.put s.build.backend
      (transformReg m (dctFwdFixed s.build.rom m) s.w.x.fx s.w.coef.fx)
      (transformReg m (dctFwdFloat s.build.rom m) s.w.x.fl s.w.coef.fl) })

/-- `DCT4_INV` (R202): `W.NEWS[0..N-1] <- DCT4(INV, D.MODE, W.COEF)`. -/
def execDct4Inv (s : State) : Result :=
  let m := s.d.mode
  .next (s.setW { s.w with
    news := s.w.news.put s.build.backend
      (transformReg m (dctInvFixed s.build.rom m) s.w.coef.fx s.w.news.fx)
      (transformReg m (dctInvFloat s.build.rom m) s.w.coef.fl s.w.news.fl) })

end Sys2Proof.Machine
end

