-- ==== Sys2Proof/Machine/Window.lean ====
section
/-! DEFINITION. The window and overlap-add engine and the headroom shifter (43_window_overlap.md): the
meanings of `WIN_ANA`, `HEADROOM` and `WIN_SYN`. -/

namespace Sys2Proof.Machine

/-! ## Samples to coefficients -/

/-- `x - y` over two products in `FIXED`: `round16(lmac(lmult(a, b), neg16(c), d))` (R243, R255). -/
def lapSub (a b c d : I16) : I32 := lmac (lmult a b) (neg16 c) d

/-- `x + y` over two products in `FIXED`: `lmac(lmult(a, b), c, d)` (R243, R255). -/
def lapAdd (a b c d : I16) : I32 := lmac (lmult a b) c d

/-- `U` of R242 in the arithmetic of R243 (`FIXED`): element `p` of the folded block. -/
def foldFixed (win : Nat → I16) (n : Nat) (old new : Nat → I16) (p : Nat) : I16 :=
  let h := n / 2
  if p < h then round16 (lapAdd (win (h - 1 - p)) (old (h - 1 - p)) (win (h + p)) (old (h + p)))
  else
    let k := p - h
    round16 (lapSub (win (n - 1 - k)) (new k) (win k) (new (n - 1 - k)))

/-- `U` of R242 in the arithmetic of R244 (`FLOAT`). -/
def foldFloat (win : Nat → FVal) (n : Nat) (old new : Nat → FVal) (p : Nat) : FVal :=
  let h := n / 2
  if p < h then
    Config.fAdd (Config.fMul (win (h - 1 - p)) (old (h - 1 - p)))
      (Config.fMul (win (h + p)) (old (h + p)))
  else
    let k := p - h
    Config.fSub (Config.fMul (win (n - 1 - k)) (new k)) (Config.fMul (win k) (new (n - 1 - k)))

/-- `toF` of a sample. -/
def floatOfSample (x : I16) : FVal := Config.fOfInt x.toInt

/-- `WIN_ANA` (R241 to R246): `W.U` from the new samples and the history, then the history takes the new
samples. -/
def execWinAna (s : State) : Result :=
  let n := s.e.mode.blk
  let rom := s.build.rom
  let newF := fun i => floatOfSample (vget s.w.pcm i)
  let s1 := s.setW { s.w with
    u := s.w.u.put s.build.backend
      (vfill s.w.u.fx n (foldFixed (rom.i16.winAna s.e.mode) n (vget s.e.hist.fx) (vget s.w.pcm)))
      (vfill s.w.u.fl n (foldFloat (rom.flt.winAna s.e.mode) n (vget s.e.hist.fl) newF)) }
  .next (s1.setE { s.e with
    hist := s.e.hist.put s.build.backend (vfill s.e.hist.fx n (vget s.w.pcm))
      (vfill s.e.hist.fl n newF) })

/-! ## Dynamic headroom shift -/

/-- `peak` of R248: the largest `abs16` of the first `n` elements, 0 for none. -/
def peakOf (u : Nat → I16) (n : Nat) : Int :=
  (List.range n).foldl (fun m i => max m (abs16 (u i)).toInt) 0

/-- `asum` of R248, an `add32` chain. -/
def absSum (u : Nat → I16) (n : Nat) : I32 :=
  (List.range n).foldl (fun t i => add32 t (toI32 (abs16 (u i)).toInt)) 0#32

/-- The piecewise rule of R249: the shift before the average check. -/
def headroomBase (rom : Rom) (normZero : I16) (peak : Int) : Int :=
  let k := rom.fixedOnly
  if peak ≥ k.hrFull.toInt then 0
  else
    let t : Int := if peak < k.hrSmall.toInt then peak + 1 else peak
    let t5 := xl (shr32 (lmult (toI16 t) k.hrMul) k.hrShr.toInt)
    if t5 = 0#16 then k.hrZero.toInt else (norm16 normZero t5).toInt - k.hrBias.toInt

/-- `m` of R249 from the peak and the sum of magnitudes. -/
def headroomShift (rom : Rom) (normZero : I16) (peak : Int) (asum : I32) : I16 :=
  let m := headroomBase rom normZero peak
  toI16 (if peak < (shr32 asum rom.fixedOnly.hrAvgShr.toInt).toInt then m - 1 else m)

/-- The shift of one element by a signed count, to the left if positive: R251; R253 takes the negated
count. -/
def shiftBy (m : Int) (v : I16) : I16 :=
  if m > 0 then shl16 v m else if m < 0 then shr16 v (-m) else v

/-- The shift `HEADROOM` chooses: R249 in `FIXED`, 0 in `FLOAT` (R247). -/
def chosenShift (s : State) : I16 :=
  match s.build.backend with
  | .fixed =>
    let u := vget s.w.u.fx
    let n := s.e.mode.blk
    headroomShift s.build.rom s.build.normZero (peakOf u n) (absSum u n)
  | .float => 0#16

/-- `HEADROOM` (R247 to R251): `W.MAGSH`, then `W.X`. -/
def execHeadroom (s : State) : Result :=
  let n := s.e.mode.blk
  let m := chosenShift s
  .next (s.setW { s.w with
    magsh := m
    x := s.w.x.put s.build.backend
      (vfill s.w.x.fx n fun i => shiftBy m.toInt (vget s.w.u.fx i))
      (vfill s.w.x.fl n (vget s.w.u.fl)) })

/-! ## Coefficients to samples -/

/-- `v` of R253 in `FIXED`: the shift is undone, by `shr16` for a positive `W.MAGSH`, by `shl16` for a
negative one. -/
def unshifted (m : I16) (news : Nat → I16) (i : Nat) : I16 := shiftBy (-m.toInt) (news i)

/-- `OUT` of R254 in the arithmetic of R255 (`FIXED`). -/
def overlapFixed (win : Nat → I16) (post : I16) (n : Nat) (v old : Nat → I16) (p : Nat) : I16 :=
  let h := n / 2
  if p < h then
    round16 (shl32 (lapAdd (win p) (v (h - 1 - p)) (win (n - 1 - p)) (old p)) post.toInt)
  else
    let k := p - h
    round16 (shl32 (lapSub (win (h + k)) (v k) (win (h - 1 - k)) (old (h - 1 - k))) post.toInt)

/-- `OUT` of R254 in the arithmetic of R256 (`FLOAT`). -/
def overlapFloat (win : Nat → FVal) (n : Nat) (v old : Nat → FVal) (p : Nat) : FVal :=
  let h := n / 2
  if p < h then
    Config.fAdd (Config.fMul (win p) (v (h - 1 - p))) (Config.fMul (win (n - 1 - p)) (old p))
  else
    let k := p - h
    Config.fSub (Config.fMul (win (h + k)) (v k)) (Config.fMul (win (h - 1 - k)) (old (h - 1 - k)))

/-- `WIN_SYN` (R252 to R257): `W.OUT` from the inverse transform's output and the retained samples, then
the second half of `v` is retained. -/
def execWinSyn (s : State) : Result :=
  let n := s.d.mode.blk
  let h := n / 2
  let rom := s.build.rom
  let vx := unshifted s.w.magsh (vget s.w.news.fx)
  let vf := vget s.w.news.fl
  let s1 := s.setW { s.w with
    out := s.w.out.put s.build.backend
      (vfill s.w.out.fx n (overlapFixed (rom.i16.winSyn s.d.mode) rom.fixedOnly.synPostshift n vx
        (vget s.d.oldsamp.fx)))
      (vfill s.w.out.fl n (overlapFloat (rom.flt.winSyn s.d.mode) n vf (vget s.d.oldsamp.fl))) }
  .next (s1.setD { s.d with
    oldsamp := s.d.oldsamp.put s.build.backend (vfill s.d.oldsamp.fx h fun k => vx (h + k))
      (vfill s.d.oldsamp.fl h fun k => vf (h + k)) })

end Sys2Proof.Machine
end

