-- ==== Sys2Proof/Machine/Sequencer.lean ====
section
/-! DEFINITION. The sequencer's own micro-operations (47_frame_commands.md, 60_exceptions.md): the
meanings of `IDLE`, `CMD_CHECK`, `LOAD_PCM`, `STORE_PCM`, `PACK`, `FRAME_CHECK` and `CONCEAL`, and what the
sequencer does between micro-operations: frame starts, `W.AVAIL`, frame ends, command ends. -/

namespace Sys2Proof.Machine

/-! ## Meanings -/

/-- `IDLE` (30_encoding.md R104): no command runs, nothing changes. -/
def execIdle (s : State) : Result := .next s

/-- `CMD_CHECK` (R360) on the word of the `CMD` write being run: a failing check is taken as a command error
(R405); a passing one writes `SEQ.CMD` and `SEQ.NFRAMES`. -/
def execCmdCheck (s : State) : Result :=
  .next (match checkCommand s.host.cmdWord s with
    | .error err => commandError err s
    | .ok (_, n) => beginCommand s.host.cmdWord n s)

/-- `LOAD_PCM(f)` (R373), `f` in `SEQ.FRAME`: `W.PCM[0..BLK-1]` from `PCMBUF`. -/
def execLoadPcm (s : State) : Result :=
  let n := s.e.mode.blk
  match readPcmList s (s.seq.frame * n) n with
  | .error f => .fault f
  | .ok xs => .next (s.setW { s.w with pcm := vfill s.w.pcm n (lget xs) })

/-- The sample `STORE_PCM` writes for an `F` value (R379): rounded to the nearest integer and saturated; "an
infinite value saturates by its sign"; of a NaN a free value (93_implementation_defined.md I9). -/
def sampleOfFloat (v : FVal) : I16 :=
  match Config.fKind v with
  | .infinity negative => toI16 (if negative then -32768 else 32767)
  | .number _ | .nan => toI16 (sat16 (Config.fRint v))

/-- The `n` samples `STORE_PCM` writes (R379). -/
def outSamples (s : State) (n : Nat) : List I16 :=
  (List.range n).map fun i =>
    match s.build.backend with
    | .fixed => vget s.w.out.fx i
    | .float => sampleOfFloat (vget s.w.out.fl i)

/-- `STORE_PCM(f)` (R379), `f` in `SEQ.FRAME`: `PCMBUF[f*BLK ..]` from `W.OUT`. -/
def execStorePcm (s : State) : Result :=
  let n := s.d.mode.blk
  let a := s.seq.frame * n
  if a + n ≤ pcmCap s then .next (s.setPcm (Memory.writeList s.pcm a (outSamples s n)))
  else .fault (.pcmCapacity (max a (pcmCap s)))

/-- The payload of a frame before it is made `BPF` bits long (R374): envelope, control value, regions. -/
def frameFields (w : WorkRegs) (m : Mode) : List Bool :=
  w.env ++ bitsOf w.catctl.val m.ccbits ++ (List.range m.nreg).flatMap fun r => vget w.rbits r

/-- The frame bit string of R374: cut to `n` bits, or padded with ones to `n` bits. -/
def fitFrame (bits : List Bool) (n : Nat) : List Bool :=
  if bits.length > n then bits.take n else bits ++ List.replicate (n - bits.length) true

/-- `PACK` (R374): `W.FRAMEBITS`, then its bits through `BS_PUT`. -/
def execPack (s : State) : Result :=
  let bits := fitFrame (frameFields s.w s.e.mode) (encBpf s)
  if roomFor s (bytesOf s.e.bw bits.length) then
    .next ((s.setW { s.w with framebits := bits }).afterPut (putBits bits s.e.bw s.bs))
  else .fault (packerFault s)

/-- Is a power index outside the legal range -17..22? (R409) -/
def outOfRange (a : I16) : Bool := a.toInt + esfAdj > 31 || a.toInt + esfAdj < -8

/-- Has `VQ_DEC` underrun, as `FRAME_CHECK` sees it (R408)? `REM` is below 0 (R406), or no bit is left and
`W.UNDERRUN`, which `FRAME_CHECK` reads (10_state.md R37), is set. DEDUCED, log entry 25. -/
def underran (w : WorkRegs) (rem : Int) : Bool := decide (rem < 0) || (decide (rem = 0) && w.underrun)

/-- The flags `FRAME_CHECK` adds (R407 to R409): `pad` says that a leftover bit was 0. -/
def checkedFlags (w : WorkRegs) (rem : Int) (pad : Bool) (m : Mode) : BitVec 4 :=
  let f1 := ferrSetIf (decide (rem > 0) && pad) ferrPad w.ferr
  let f2 := ferrSetIf (underran w rem && decide (w.catctl.val < m.nposs - 1)) ferrOverrun f1
  ferrSetIf ((List.range m.nreg).any fun r => outOfRange (vget w.abs r)) ferrRange f2

/-- `FRAME_CHECK` (R406 to R409): all leftover bits are read, then the flags are set. -/
def execFrameCheck (s : State) : Result :=
  let m := s.d.mode
  match getBits (readBs s) s.d.br.rem.toNat s.d.br with
  | .error f => .fault f
  | .ok (bits, br) =>
    let pad := (bits.getD []).any fun b => !b
    .next ((s.setW { s.w with ferr := checkedFlags s.w s.d.br.rem pad m }).setD { s.d with br := br })

/-- `CONCEAL` (R412 to R414): the trap entry of Ops.lean. -/
def execConceal (s : State) : Result := .next (enterConceal s)

/-! ## Between micro-operations -/

/-- `W.AVAIL <- BPF - W.ENVBITS - CCBITS` (44_region_power.md R281). -/
def encAvail (s : State) : State :=
  s.setW { s.w with avail := (encBpf s : Int) - s.w.envbits - s.e.mode.ccbits }

/-- `W.AVAIL <- D.BR.REM` (R376 step 4). -/
def decAvail (s : State) : State := s.setW { s.w with avail := s.d.br.rem }

/-- `W.COEF[0..BLK-1] <- 0` (R376, R383 step 0). -/
def zeroCoef (s : State) : SigReg 640 :=
  s.w.coef.put s.build.backend
    (vfill s.w.coef.fx s.d.mode.blk fun _ => 0#16)
    (vfill s.w.coef.fl s.d.mode.blk fun _ => Config.fOfInt 0)

/-- The start of a `DECODE` frame (R376 step 0). -/
def decodeFrameStart (s : State) : State :=
  s.setW { s.w with ferr := 0#4, underrun := false, coef := zeroCoef s, randsnap := s.d.rand }

/-- The start of a `FILL_IN` frame (R383 step 0). -/
def fillFrameStart (s : State) : State :=
  s.setW { s.w with
    ferr := ferrErased, underrun := false, coef := zeroCoef s, magsh := 0#16, randsnap := s.d.rand }

/-- The end of a decoded or filled-in frame (R376 step 13; 60_exceptions.md R411). -/
def frameEnd (s : State) : State := s.setSeq (recordFrame s.w.ferr s.seq)

/-- The accumulators of R411 at the start of a `DECODE` or `FILL_IN`. -/
def clearRecord (s : State) : State :=
  s.setSeq { s.seq with last := 0#4, orf := 0#4, nconc := 0#16 }

/-- The end of `ENCODE` (R361, R370): `RESULT <- NFRAMES * BYPF`. -/
def finishEncode (s : State) : State := complete (s.seq.nframes * encBypf s) s

/-- The end of `DECODE` and `FILL_IN` (R361, R375, R383, R411): `ERRINFO`, `FERR_ANY` and
`RESULT <- NFRAMES * BLK`. -/
def finishDecode (s : State) : State :=
  complete (s.seq.nframes * s.d.mode.blk)
    { s with errInfo := errInfoWord s.seq, ferrAny := ferrAnyOf s.seq }

/-- Did `PWR_DEC` meet the end of the frame (R285)? `W.FERR` is 0 before it, so the flag says so. -/
def headerFailed (s : State) : Bool := s.w.ferr &&& ferrOverrun ≠ 0#4

end Sys2Proof.Machine
end

