-- ==== Sys2Proof/Machine/Commands.lean ====
section
/-! DEFINITION. The six host commands (47_frame_commands.md) and the order in which the sequencer runs
the micro-operations of a command. A command is one step (70_reset_and_hazards.md R450); `advance` says the
same order one micro-operation at a time (R380). -/

namespace Sys2Proof.Machine

/-! ## Context commands -/

/-- The mode of an `INIT` that passed its checks (R362). -/
def initMode (s : State) : Mode := (modeOfSelector s.arg1).getD .nb

/-- Side `E` after `INIT` (10_state.md R58). -/
def initEncoder (s : State) : Encoder where
  valid := true
  mode := initMode s
  rate := s.arg0.setWidth 16
  hist := s.e.hist.put s.build.backend (Vector.replicate 640 0#16)
    (Vector.replicate 640 (Config.fOfInt 0))
  bw := { acc := 0#32, res := 0, ptr := 0 }

/-- Side `D` after `INIT` (10_state.md R58). -/
def initDecoder (s : State) : Decoder where
  valid := true
  mode := initMode s
  rate := s.arg0.setWidth 16
  oldcoef := s.d.oldcoef.put s.build.backend (Vector.replicate 640 0#16)
    (Vector.replicate 640 (Config.fOfInt 0))
  oldshift := 0#16
  oldsamp := s.d.oldsamp.put s.build.backend (Vector.replicate 320 0#16)
    (Vector.replicate 320 (Config.fOfInt 0))
  rand := s.build.prngSeed
  br := { acc := 0#32, res := 0, ptr := 0, rem := 0 }

/-- The body of `INIT` (R362). -/
def initBody (side : Side) (s : State) : State :=
  match side with
  | .enc => complete 0 (s.setE (initEncoder s))
  | .dec => complete 0 (s.setD (initDecoder s))

/-- The body of `SET_RATE` (R365): the rate and nothing else. -/
def setRateBody (side : Side) (s : State) : State :=
  match side with
  | .enc => complete 0 (s.setE { s.e with rate := s.arg0.setWidth 16 })
  | .dec => complete 0 (s.setD { s.d with rate := s.arg0.setWidth 16 })

/-- The body of `RELEASE` (R367): `VALID` is 0 and the side's other registers are unspecified, here a free
value (log entry 12). -/
def releaseBody (side : Side) (s : State) : State :=
  let s1 := { s with freeCount := s.freeCount + 1 }
  match side with
  | .enc => complete 0 (s1.setE { Config.freeEncoder s.freeCount with valid := false })
  | .dec => complete 0 (s1.setD { Config.freeDecoder s.freeCount with valid := false })

/-- `INIT` (R362, R363). -/
def execInit (side : Side) (s : State) : Result :=
  runCommand (wordOf (.init side)) (fun t => .next (initBody side t)) s

/-- `SET_RATE` (R365, R366). -/
def execSetRate (side : Side) (s : State) : Result :=
  runCommand (wordOf (.setRate side)) (fun t => .next (setRateBody side t)) s

/-- `RELEASE` (R367). -/
def execRelease (side : Side) (s : State) : Result :=
  runCommand (wordOf (.release side)) (fun t => .next (releaseBody side t)) s

/-! ## Frame sequences -/

/-- A micro-operation of a sequence: its code in `SEQ.PHASE`, then its meaning. -/
def uop (i : Instr) (m : State → Result) (s : State) : Result := m (s.setPhase (phaseOf i))

/-- An action of the sequencer between micro-operations. -/
def act (f : State → State) (s : State) : Result := .next (f s)

/-- The frame sequence of `ENCODE` (R371). -/
def encodeFrame : State → Result :=
  runAll [uop .loadPcm execLoadPcm, uop .winAna execWinAna, uop .headroom execHeadroom,
    uop .dct4Fwd execDct4Fwd, uop .pwrEst execPwrEst, uop .pwrAdj execPwrAdj, uop .pwrEnc execPwrEnc,
    act encAvail, uop .categorize execCategorize, uop .rateAdj execRateAdj, uop .bsWinit execBsWinit,
    uop .pack execPack, uop .bsFlush execBsFlush]

/-- Step 7 of R376 for `k` regions from `r` on. -/
def decodeRegions : Nat → Nat → State → Result
  | 0, _, s => .next s
  | k + 1, r, s =>
    thenDo (uop .vqDec execVqDec (s.setRegion r)) fun s1 =>
      thenDo (uop .noiseFill execNoiseFill s1) (decodeRegions k (r + 1))

/-- Steps 3 to 8 of R376. -/
def decodeBody (s : State) : Result :=
  runAll [uop .sdShift execSdShift, act decAvail, uop .categorize execCategorize,
    uop .catReplay execCatReplay, fun t => decodeRegions t.d.mode.nreg 0 t,
    uop .frameCheck execFrameCheck] s

/-- Steps 9 to 13 of R376, the same in R383. -/
def concealTail : State → Result :=
  runAll [uop .conceal execConceal, uop .dct4Inv execDct4Inv, uop .winSyn execWinSyn,
    uop .storePcm execStorePcm, act frameEnd]

/-- The frame sequence of `DECODE` (R376): after `PWR_DEC`, steps 3 to 8 are skipped when the header was
exhausted (R285, R380). -/
def decodeFrame : State → Result :=
  runAll [act decodeFrameStart, uop .bsRinit execBsRinit, uop .pwrDec execPwrDec,
    fun s => if headerFailed s then .next s else decodeBody s, concealTail]

/-- The frame sequence of `FILL_IN` (R383). -/
def fillFrame : State → Result := runAll [act fillFrameStart, concealTail]

/-- The frame loop (R380): `k` frames from `f` on, with `SEQ.FRAME` the frame's number. -/
def frameLoop (frame : State → Result) : Nat → Nat → State → Result
  | 0, _, s => .next s
  | k + 1, f, s => thenDo (frame (s.setFrame f)) (frameLoop frame k (f + 1))

/-- The body of `ENCODE` (R370, R371). -/
def encodeBody (s : State) : Result := thenDo (frameLoop encodeFrame s.seq.nframes 0 s) (act finishEncode)

/-- The body of `DECODE` (R375, R376, R411). -/
def decodeCommandBody (s : State) : Result :=
  thenDo (frameLoop decodeFrame s.seq.nframes 0 (clearRecord s)) (act finishDecode)

/-- The body of `FILL_IN` (R383, R411). -/
def fillInBody (s : State) : Result :=
  thenDo (frameLoop fillFrame s.seq.nframes 0 (clearRecord s)) (act finishDecode)

/-- `ENCODE` (R370 to R372). -/
def execEncode (side : Side) (s : State) : Result := runCommand (wordOf (.encode side)) encodeBody s

/-- `DECODE` (R375 to R378). -/
def execDecode (side : Side) (s : State) : Result :=
  runCommand (wordOf (.decode side)) decodeCommandBody s

/-- `FILL_IN` (R383 to R385). -/
def execFillIn (side : Side) (s : State) : Result := runCommand (wordOf (.fillIn side)) fillInBody s

/-! ## One micro-operation at a time -/

/-- The next phase of a sequence. -/
def goto (i : Instr) (s : State) : State := s.setPhase (phaseOf i)

/-- The first phase of frame `f` of `ENCODE`, or the end of the command (R380 (4)). -/
def enterEncodeFrame (f : Nat) (s : State) : State :=
  if f < s.seq.nframes then goto .loadPcm (s.setFrame f) else finishEncode s

/-- The same for `DECODE`. -/
def enterDecodeFrame (f : Nat) (s : State) : State :=
  if f < s.seq.nframes then goto .bsRinit (decodeFrameStart (s.setFrame f)) else finishDecode s

/-- The same for `FILL_IN`. -/
def enterFillFrame (f : Nat) (s : State) : State :=
  if f < s.seq.nframes then goto .conceal (fillFrameStart (s.setFrame f)) else finishDecode s

/-- The region loop of R380 (3): the first phase of region `r`, or `FRAME_CHECK`. -/
def enterRegion (r : Nat) (s : State) : State :=
  if r < s.d.mode.nreg then goto .vqDec (s.setRegion r) else goto .frameCheck s

/-- After `CMD_CHECK`: `IDLE` if it failed, else the body of the command in `SEQ.CMD`. -/
def enterBody (s : State) : State :=
  if s.seq.phase = 0x00#8 then s
  else
    match decodeCommand s.seq.cmd with
    | .ok (.init side) => initBody side s
    | .ok (.setRate side) => setRateBody side s
    | .ok (.release side) => releaseBody side s
    | .ok (.encode _) => enterEncodeFrame 0 s
    | .ok (.decode _) => enterDecodeFrame 0 (clearRecord s)
    | .ok (.fillIn _) => enterFillFrame 0 (clearRecord s)
    | .ok _ => goto .idle s
    | .error _ => goto .idle s

/-- Is the running command `FILL_IN`? -/
def runsFillIn (s : State) : Bool := decodeCommand s.seq.cmd == .ok (.fillIn .dec)

/-- `SEQ.PHASE` after a micro-operation (R371, R376, R380, R383). A called micro-operation run by itself
ends at `IDLE` (log entry 11). -/
def advance (i : Instr) (s : State) : State :=
  match i with
  | .init _ | .setRate _ | .encode _ | .decode _ | .fillIn _ | .release _ => s
  | .idle => s
  | .cmdCheck => enterBody s
  | .loadPcm => goto .winAna s
  | .winAna => goto .headroom s
  | .headroom => goto .dct4Fwd s
  | .dct4Fwd => goto .pwrEst s
  | .pwrEst => goto .pwrAdj s
  | .pwrAdj => goto .pwrEnc s
  | .pwrEnc => goto .categorize (encAvail s)
  | .categorize =>
    match runSide s with
    | .enc => goto .rateAdj s
    | .dec => goto .catReplay s
  | .rateAdj => goto .bsWinit s
  | .bsWinit => goto .pack s
  | .pack => goto .bsFlush s
  | .bsFlush => enterEncodeFrame (s.seq.frame + 1) s
  | .bsRinit => goto .pwrDec s
  | .pwrDec => if headerFailed s then goto .conceal s else goto .sdShift s
  | .sdShift => goto .categorize (decAvail s)
  | .catReplay => enterRegion 0 s
  | .vqDec => goto .noiseFill s
  | .noiseFill => enterRegion (s.seq.region.val + 1) s
  | .frameCheck => goto .conceal s
  | .conceal => goto .dct4Inv s
  | .dct4Inv => goto .winSyn s
  | .winSyn => goto .storePcm s
  | .storePcm =>
    let t := frameEnd s
    if runsFillIn t then enterFillFrame (t.seq.frame + 1) t else enterDecodeFrame (t.seq.frame + 1) t
  | .bsPut | .bsGet | .vqEnc | .rand => goto .idle s

end Sys2Proof.Machine
end

