-- ==== Sys2Proof/Machine/Dispatch.lean ====
section
/-! DEFINITION. The dispatch of every instruction to its meaning. -/

namespace Sys2Proof.Machine

open Sys2Proof

def exec (i : Instr) (s : State) : Host.Outcome State Fault Refusal :=
  match i with
  -- host commands (47_frame_commands.md)
  | .init side => Sys2Proof.Machine.execInit side s
  | .setRate side => Sys2Proof.Machine.execSetRate side s
  | .encode side => Sys2Proof.Machine.execEncode side s
  | .decode side => Sys2Proof.Machine.execDecode side s
  | .fillIn side => Sys2Proof.Machine.execFillIn side s
  | .release side => Sys2Proof.Machine.execRelease side s
  -- sequencer
  | .idle => Sys2Proof.Machine.execIdle s
  | .cmdCheck => Sys2Proof.Machine.execCmdCheck s
  | .loadPcm => Sys2Proof.Machine.execLoadPcm s
  | .storePcm => Sys2Proof.Machine.execStorePcm s
  -- bitstream (41_bitstream.md)
  | .bsPut => Sys2Proof.Machine.execBsPut s
  | .bsGet => Sys2Proof.Machine.execBsGet s
  | .bsFlush => Sys2Proof.Machine.execBsFlush s
  | .bsWinit => Sys2Proof.Machine.execBsWinit s
  | .bsRinit => Sys2Proof.Machine.execBsRinit s
  -- transform (42_transform.md)
  | .dct4Fwd => Sys2Proof.Machine.execDct4Fwd s
  | .dct4Inv => Sys2Proof.Machine.execDct4Inv s
  -- window (43_window_overlap.md)
  | .winAna => Sys2Proof.Machine.execWinAna s
  | .headroom => Sys2Proof.Machine.execHeadroom s
  | .winSyn => Sys2Proof.Machine.execWinSyn s
  -- region power (44_region_power.md)
  | .pwrEst => Sys2Proof.Machine.execPwrEst s
  | .pwrAdj => Sys2Proof.Machine.execPwrAdj s
  | .pwrEnc => Sys2Proof.Machine.execPwrEnc s
  | .pwrDec => Sys2Proof.Machine.execPwrDec s
  | .sdShift => Sys2Proof.Machine.execSdShift s
  -- categorization (45_categorization.md)
  | .categorize => Sys2Proof.Machine.execCategorize s
  | .catReplay => Sys2Proof.Machine.execCatReplay s
  | .rateAdj => Sys2Proof.Machine.execRateAdj s
  -- vector quantizer (46_vector_quantizer.md)
  | .vqEnc => Sys2Proof.Machine.execVqEnc s
  | .vqDec => Sys2Proof.Machine.execVqDec s
  | .noiseFill => Sys2Proof.Machine.execNoiseFill s
  | .rand => Sys2Proof.Machine.execRand s
  -- frame (47_frame_commands.md, 60_exceptions.md)
  | .pack => Sys2Proof.Machine.execPack s
  | .frameCheck => Sys2Proof.Machine.execFrameCheck s
  | .conceal => Sys2Proof.Machine.execConceal s

end Sys2Proof.Machine
end

