-- ==== Sys2Proof/Machine/Fetch.lean ====
section
/-! DEFINITION. What a step finds to do, and the host's accesses to the register block and the buffers
(10_state.md R21 to R26; 20_memory.md R70 to R79; 70_reset_and_hazards.md R450). -/

namespace Sys2Proof.Machine

/-- What the next step does: nothing, a command, another access of the host, or the micro-operation whose
code `SEQ.PHASE` holds. -/
inductive Fetched where
  | nothing
  | command (w : Word)
  | access (a : HostAccess)
  | phase (c : Byte)
deriving DecidableEq, Repr, Inhabited

/-- The host acts only between commands (R450), one access a step, in its program order (R82). A 32-bit
write at offset 0x00 is the write to `CMD` (R22). -/
def fetch (s : State) : Fetched :=
  if s.seq.phase = 0x00#8 then
    match s.host.pending with
    | [] => .nothing
    | .regWrite off width w :: _ =>
      if off = 0x00 ∧ width = 32 then .command w else .access (.regWrite off width w)
    | a :: _ => .access a
  else .phase s.seq.phase

/-- The host's access has been taken up. -/
def takeAccess (s : State) : State := s.setHost { s.host with pending := s.host.pending.tail }

/-- The `CMD` write has been taken up: its word is the operand of `CMD_CHECK`. -/
def takeCommand (w : Word) (s : State) : State :=
  s.setHost { s.host with pending := s.host.pending.tail, cmdWord := w }

/-- The value a read gave the host. -/
def hostReads (v : Word) (s : State) : State := s.setHost { s.host with readData := v }

/-- The value of a register of the block (R21 to R26); `CMD` reads as 0. -/
def readRegister (s : State) (off : Nat) : Option Word :=
  if off = 0x00 then some 0#32
  else if off = 0x04 then some s.arg0
  else if off = 0x08 then some s.arg1
  else if off = 0x0C then some (statusWord s)
  else if off = 0x10 then some s.result
  else if off = 0x14 then some s.errInfo
  else none

/-- A read of the register block (R76, R79). -/
def hostRegRead (off width : Nat) (s : State) : Result :=
  if width = 32 then
    match readRegister s off with
    | some v => .next (hostReads v s)
    | none => .refused (.registerAccess off width)
  else .refused (.registerAccess off width)

/-- A write to the register block, `CMD` excepted (R76, R79). -/
def hostRegWrite (off width : Nat) (v : Word) (s : State) : Result :=
  if width = 32 then
    if off = 0x04 then .next { s with arg0 := v }
    else if off = 0x08 then .next { s with arg1 := v }
    else if off = 0x0C ∨ off = 0x10 ∨ off = 0x14 then .refused (.readOnlyRegister off)
    else .refused (.registerAccess off width)
  else .refused (.registerAccess off width)

/-- One access of the host that is not a write to `CMD` (R76, R79): an index outside a buffer is refused,
a cell nothing has written faults (10_state.md R57). DESIGN CHOICE: a sample or a byte read stands zero-extended
in the model's 32-bit read value; the spec says only that an access is one sample or one byte (log entry
29). -/
def performAccess (a : HostAccess) (s : State) : Result :=
  match a with
  | .regRead off width => hostRegRead off width s
  | .regWrite off width v => hostRegWrite off width v s
  | .pcmRead i =>
    if i < pcmCap s then
      match Memory.read s.pcm i with
      | some v => .next (hostReads (v.setWidth 32) s)
      | none => .fault (.pcmUnwritten i)
    else .refused (.pcmIndex i)
  | .pcmWrite i v =>
    if i < pcmCap s then .next (s.setPcm (Memory.write s.pcm i v)) else .refused (.pcmIndex i)
  | .bsRead i =>
    if i < bsCap s then
      match Memory.read (w := 8) s.bs i with
      | some v => .next (hostReads (v.setWidth 32) s)
      | none => .fault (.bsUnwritten i)
    else .refused (.bsIndex i)
  | .bsWrite i v =>
    if i < bsCap s then .next (s.setBs (Memory.write (w := 8) s.bs i v)) else .refused (.bsIndex i)

/-- The state whose next step runs a code word: a command word is the host's next access, at `IDLE`; a
phase code stands in `SEQ.PHASE` (and `IDLE` runs only while the host does nothing). Log entry 8. -/
def placeCode (c : CodeWord) (s : State) : State :=
  match c with
  | .cmd w =>
    (s.setPhase 0x00#8).setHost { s.host with pending := .regWrite 0x00 32 w :: s.host.pending }
  | .phase c =>
    let s1 := s.setPhase c
    if c = 0x00#8 then s1.setHost { s.host with pending := [] } else s1

end Sys2Proof.Machine
end

