-- ==== Sys2Proof/Machine/Step.lean ====
section
/-! DEFINITION. One step of the machine: the host's next access between commands, a whole command inside
the write to `CMD` (70_reset_and_hazards.md R450), or one micro-operation while `SEQ.PHASE` is not `IDLE`. -/

namespace Sys2Proof.Machine

/-- The step function. -/
def step (s : State) : Host.Outcome State Fault Refusal :=
  match fetch s with
  | .nothing => exec .idle s
  | .command w =>
    match decodeCommand w with
    | .ok i => exec i (takeCommand w s)
    | .error _ => .next (commandError .illCmd (takeCommand w s))
  | .access a => performAccess a (takeAccess s)
  | .phase c =>
    match decodePhase c with
    | .ok i => thenDo (exec i s) fun t => .next (advance i t)
    | .error _ => .refused (.unassignedPhase c)

/-- The state whose next step runs the opcode-table row's word; a width that no row has changes nothing. -/
def State.withFetchWord (s : State) (nbits w : Nat) : State :=
  match codeWordOfBits nbits w with
  | some c => placeCode c s
  | none => s

end Sys2Proof.Machine
end

