-- ==== Sys2Proof/Machine/Wire.lean ====
section
/-! DEFINITION. The fields of a frame as plain bit strings (30_encoding.md R109 to R112, R115, R116, R118),
with no cursor and no buffer. No meaning uses it: statements about the decoder are stated in these terms. -/

namespace Sys2Proof.Machine

/-- The walk of R116 over a bit string, from node `n`: the leaf's symbol and the bits after its code; `none`
where the string ends first. -/
def walkString (tree : Nat → TreeNode) : Nat → List Bool → Option (Nat × List Bool)
  | _, [] => none
  | n, b :: bs =>
    let t := (tree n).next b
    if t ≤ 0 then some ((-t).toNat, bs) else walkString tree t.toNat bs

/-- The envelope steps of `k` regions from `r` on, one after the other (44_region_power.md R283): those whose
codes are wholly there, and the bits after the last one, or `none` where the string ends inside one of them. -/
def wireSteps (rom : Rom) : Nat → Nat → List Bool → List Nat × Option (List Bool)
  | 0, _, bits => ([], some bits)
  | k + 1, r, bits =>
    match walkString (drpTreeAt rom r) 0 bits with
    | none => ([], none)
    | some (j, rest) =>
      let p := wireSteps rom k (r + 1) rest
      (j :: p.1, p.2)

/-- One vector on the wire (R112): its bins, and its sign bits, one for each bin that is not 0. -/
structure WireVector where
  bins : List Nat
  signs : List Bool
deriving DecidableEq, Repr, Inhabited

/-- The vector of category `c` at the head of a bit string, and the bits after it; `none` where its code or
not all of its sign bits are there (46_vector_quantizer.md R332, R341). -/
def wireVector (rom : Rom) (c : Nat) (bits : List Bool) : Option (WireVector × List Bool) :=
  match walkString (vqTreeAt rom c) 0 bits with
  | none => none
  | some (index, rest) =>
    let p := decompose rom index c
    if rest.length < p.2 then none else some (⟨p.1, rest.take p.2⟩, rest.drop p.2)

/-- `k` vectors one after the other: those that are wholly there, and the bits after the last one, or `none`
where the string ends inside one of them. -/
def wireVectors (rom : Rom) (c : Nat) : Nat → List Bool → List WireVector × Option (List Bool)
  | 0, bits => ([], some bits)
  | k + 1, bits =>
    match wireVector rom c bits with
    | none => ([], none)
    | some (v, rest) =>
      let p := wireVectors rom c k rest
      (v :: p.1, p.2)

/-- Element `j` of a vector (R118, R332): the level of its bin, negated where its sign bit, the bit for the
`i`-th bin that is not 0, is 0. -/
def WireVector.element {α : Type} (v : WireVector) (level : Nat → α) (neg : α → α) (j : Nat) : α :=
  let k := lget v.bins j
  let i := (v.bins.take j).countP fun b => b != 0
  if k ≠ 0 ∧ lget v.signs i = false then neg (level k) else level k

end Sys2Proof.Machine
end

