-- ==== Sys2Proof/Machine/RomConditions.lean ====
section
/-! DEFINITION. What a conforming `ROM` satisfies (10_state.md R41 to R55; 70_reset_and_hazards.md
R442). No meaning uses it: the machine is defined for every record (log entry 16); a statement that needs a
condition takes it as a premise. -/

namespace Sys2Proof.Machine

/-- `EXPBITS` (R47): non-increasing in the category, 0 for category 7. -/
def expbitsWf (rom : Rom) : Prop :=
  (∀ c < 7, vget rom.expbits (c + 1) ≤ vget rom.expbits c) ∧ vget rom.expbits 7 = 0

/-- How many composite indices a category has (30_encoding.md R115). -/
def indexCount (rom : Rom) (c : Nat) : Nat := (vget rom.kmax c + 1) ^ vget rom.vdim c

/-- The category metadata (R48). -/
def categoryWf (rom : Rom) : Prop :=
  (∀ c < 7, vget rom.vdim c * vget rom.nvec c = 20) ∧
  (∀ c < 8, 1 ≤ vget rom.kmax c ∧ vget rom.kmax c ≤ 13) ∧
  (∀ c < 8, ∀ p < indexCount rom c, p * vget rom.kinv c / 32768 = p / (vget rom.kmax c + 1))

/-- The quantizer tables (R49), both backends. -/
def quantizerWf (rom : Rom) : Prop :=
  (∀ c < 8, vget rom.fixedOnly.dz c ≤ 131071) ∧
  (∀ c < 8, Config.fLt (vget rom.floatOnly.dz c) (Config.fOfInt 0) = false ∧
    Config.fLt (vget rom.floatOnly.dz c) (Config.fOfInt 1) = true) ∧
  (∀ c < 8, vget (vget rom.i16.centroid c) 0 = 0#16) ∧
  (∀ c < 8, vget (vget rom.flt.centroid c) 0 = Config.fOfInt 0)

/-- A decode tree is well formed (R52): every positive entry is a later node, every leaf a symbol. -/
def treeWf (tree : Nat → TreeNode) (nodes symbols : Nat) : Prop :=
  0 < nodes ∧ ∀ n < nodes, ∀ b : Bool,
    if 0 < (tree n).next b then (n : Int) < (tree n).next b ∧ (tree n).next b < nodes
    else (-(tree n).next b).toNat < symbols

/-- The leaf a walk ends at when it uses up exactly these bits (R53). -/
def walkBits (tree : Nat → TreeNode) (n : Nat) (bits : List Bool) : Option Nat :=
  match walkString tree n bits with
  | some (symbol, []) => some symbol
  | _ => none

/-- The envelope code tables (R50, R52, R53; agreement for every row). -/
def envelopeCodeWf (rom : Rom) : Prop :=
  ∀ r, 1 ≤ r → r ≤ 27 →
    treeWf (drpTreeAt rom r) 23 24 ∧
    ∀ j < 24,
      1 ≤ vget (vget rom.drpLen r) j ∧ vget (vget rom.drpLen r) j ≤ 32 ∧
      vget (vget rom.drpCode r) j < 2 ^ vget (vget rom.drpLen r) j ∧
      walkBits (drpTreeAt rom r) 0 (drpCodeBits rom r j) = some j

/-- The vector code tables (R51, R52, R53; agreement for every row). -/
def vectorCodeWf (rom : Rom) : Prop :=
  ∀ c < 7,
    treeWf (vqTreeAt rom c) (vget rom.vqTree c).length (indexCount rom c) ∧
    ∀ i < indexCount rom c,
      1 ≤ lget (vget rom.vqLen c) i ∧ lget (vget rom.vqLen c) i + vget rom.vdim c ≤ 32 ∧
      lget (vget rom.vqCode c) i < 2 ^ lget (vget rom.vqLen c) i ∧
      walkBits (vqTreeAt rom c) 0 (vqCodeBits rom c i) = some i

/-- `PWR_BOUND` is strictly increasing (R45). -/
def boundsWf (rom : Rom) : Prop :=
  ∀ i < 62, Config.fLt (vget rom.floatOnly.pwrBound i) (vget rom.floatOnly.pwrBound (i + 1)) = true

/-- An entry of the `FLOAT` core matrices (R42). -/
def coreEntry (m : Mode) (i k : Nat) (v : FVal) : Prop :=
  v = Config.fOfReal (Real.sqrt (2 / (m.blk : ℝ)) *
    Real.cos (Real.pi / 10 * ((i : ℝ) + 1 / 2) * ((k : ℝ) + 1 / 2)))

/-- An entry of the `FLOAT` rotation tables (R43): cosine and negated sine of
`pi * (i + 1/2) / (2 * span)`. -/
def rotationEntry (span i : Nat) (v : FVal × FVal) : Prop :=
  v.1 = Config.fOfReal (Real.cos (Real.pi * ((i : ℝ) + 1 / 2) / (2 * (span : ℝ)))) ∧
  v.2 = Config.fOfReal (-Real.sin (Real.pi * ((i : ℝ) + 1 / 2) / (2 * (span : ℝ))))

/-- The `FLOAT` tables whose contents the spec gives (R42, R43). -/
def floatContents (rom : Rom) : Prop :=
  (∀ m : Mode, ∀ i < 10, ∀ k < 10,
    coreEntry m i k (rom.flt.coreFwd m i k) ∧ coreEntry m i k (rom.flt.coreInv m i k)) ∧
  (∀ span ∈ [20, 40, 80, 160, 320, 640], ∀ i < span / 2,
    rotationEntry span i (rom.flt.cosmsin span i))

/-- Every entry of the `FLOAT` tables is a number: "finite table entries" (42_transform.md R215). -/
def floatFinite (rom : Rom) : Prop :=
  let number := fun v : FVal => Config.fIsNumber v = true
  (∀ m : Mode, ∀ i < 10, ∀ k < 10, number (rom.flt.coreFwd m i k) ∧ number (rom.flt.coreInv m i k)) ∧
  (∀ span ∈ [20, 40, 80, 160, 320, 640], ∀ i < span / 2,
    number (rom.flt.cosmsin span i).1 ∧ number (rom.flt.cosmsin span i).2) ∧
  (∀ m : Mode, number (rom.floatOnly.kFwd m) ∧ number (rom.floatOnly.kInv m)) ∧
  (∀ m : Mode, ∀ i < m.blk, number (rom.flt.winAna m i) ∧ number (rom.flt.winSyn m i)) ∧
  (∀ i < 64, number (vget rom.flt.sd i) ∧ number (vget rom.flt.sdInv i)) ∧
  (∀ c < 8, number (vget rom.flt.stepInv c) ∧ number (vget rom.floatOnly.dz c)) ∧
  (∀ c < 8, ∀ k ≤ vget rom.kmax c, number (vget (vget rom.flt.centroid c) k)) ∧
  (∀ i < 3, number (vget rom.flt.noise i)) ∧
  ∀ i < 63, number (vget rom.floatOnly.pwrBound i)

/-! ## The pairing of the backends (R55; 42_transform.md R218) -/

/-- What "up to rounding" means in R218, which gives no numbers: DESIGN CHOICE, log entry 31. -/
structure PairingBounds where
  /-- samples and coefficients up to this magnitude are held to the condition: nothing saturates -/
  magnitude : Int
  /-- the largest rounding error of a coefficient -/
  forward : ℝ
  /-- the largest rounding error of an output sample -/
  inverse : ℝ

/-- A half-window has unit gain: the squares of mirrored entries add up to 1, as those of the sine half-window
"with gain 1" do (43_window_overlap.md R245, R258). DEDUCED, log entry 31. -/
def unitGain (N : Nat) (w : Nat → ℝ) : Prop := ∀ i < N, w i ^ 2 + w (N - 1 - i) ^ 2 = 1

/-- `y` is the orthonormal DCT-IV of `x` (42_transform.md R216). -/
def isDct4 (N : Nat) (x y : Nat → ℝ) : Prop :=
  ∀ k < N, y k = Real.sqrt (2 / (N : ℝ)) * ((List.range N).map fun n =>
    x n * Real.cos (Real.pi / (N : ℝ) * ((n : ℝ) + 1 / 2) * ((k : ℝ) + 1 / 2))).sum

/-- The `FIXED` forward path, "window, shift by `m`, transform", computes up to rounding `g * 2^m` times the
DCT-IV of the samples windowed by `w` (R218). -/
def forwardGain (b : PairingBounds) (rom : Rom) (m : Mode) (w : Nat → ℝ) (g : ℝ) : Prop :=
  let n := m.blk
  let h := n / 2
  ∀ old new : Nat → I16,
    (∀ i < n, |(old i).toInt| ≤ b.magnitude ∧ |(new i).toInt| ≤ b.magnitude) →
    let u := foldFixed (rom.i16.winAna m) n old new
    -- the sentinel of R159 is never used (43_window_overlap.md R249)
    let shift := (headroomShift rom 0#16 (peakOf u n) (absSum u n)).toInt
    let coef := dctFwdFixed rom m (vgen n fun i => shiftBy shift (u i))
    let o : Nat → ℝ := fun i => (old i).toInt
    let x : Nat → ℝ := fun i => (new i).toInt
    let folded : Nat → ℝ := fun p =>
      if p < h then w (h - 1 - p) * o (h - 1 - p) + w (h + p) * o (h + p)
      else w (n - 1 - (p - h)) * x (p - h) - w (p - h) * x (n - 1 - (p - h))
    ∀ y, isDct4 n folded y → ∀ k < n,
      |((vget coef k).toInt : ℝ) - g * (2 : ℝ) ^ shift * y k| ≤ b.forward

/-- The `FIXED` inverse path, "transform, undo shift, window, post-shift", computes up to rounding `g` times the
synthesis with the window `w` (R218), here of a frame after another one, each with its shift. -/
def inverseGain (b : PairingBounds) (rom : Rom) (m : Mode) (w : Nat → ℝ) (g : ℝ) : Prop :=
  let n := m.blk
  let h := n / 2
  ∀ (before now : Nat → I16) (mb mn : I16),
    (∀ i < n, |(before i).toInt| ≤ b.magnitude ∧ |(now i).toInt| ≤ b.magnitude) →
    -1 ≤ mb.toInt → mb.toInt ≤ 9 → -1 ≤ mn.toInt → mn.toInt ≤ 9 →
    let block := fun (shift : I16) (c : Nat → I16) =>
      unshifted shift (vget (dctInvFixed rom m (vgen n c)))
    let out := overlapFixed (rom.i16.winSyn m) rom.fixedOnly.synPostshift n (block mn now)
      (fun k => block mb before (h + k))
    let value := fun (shift : I16) (c : Nat → I16) (i : Nat) =>
      ((c i).toInt : ℝ) / (2 : ℝ) ^ shift.toInt
    ∀ yb y, isDct4 n (value mb before) yb → isDct4 n (value mn now) y → ∀ k < h,
      |((out k).toInt : ℝ) - g * (w k * y (h - 1 - k) + w (n - 1 - k) * yb (h + k))| ≤ b.inverse ∧
      |((out (h + k)).toInt : ℝ) - g * (w (h + k) * y k - w (h - 1 - k) * yb (n - 1 - k))| ≤ b.inverse

/-- The numeric pairing of the two backends' tables, all of it that the spec turns into equations (R55, R218;
93_implementation_defined.md I17): `FLOAT` has unit-gain windows, `K_FWD` is the gain of the `FIXED` forward path
and `K_INV` that of its inverse path. -/
def backendsPaired (b : PairingBounds) (rom : Rom) : Prop :=
  ∀ m : Mode, ∃ (ana syn : Nat → ℝ) (gFwd gInv : ℝ),
    unitGain m.blk ana ∧ unitGain m.blk syn ∧
    forwardGain b rom m ana gFwd ∧ inverseGain b rom m syn gInv ∧
    (∀ i < m.blk, rom.flt.winAna m i = Config.fOfReal (ana i) ∧
      rom.flt.winSyn m i = Config.fOfReal (syn i)) ∧
    rom.floatOnly.kFwd m = Config.fOfReal gFwd ∧ rom.floatOnly.kInv m = Config.fOfReal gInv

/-- A conforming `ROM` (R442), the tables of both backends. Their integer tables are the same fields, so that
part of R55 holds of every record; the numeric part is `backendsPaired`. -/
def romWf (b : PairingBounds) (rom : Rom) : Prop :=
  expbitsWf rom ∧ categoryWf rom ∧ quantizerWf rom ∧ envelopeCodeWf rom ∧ vectorCodeWf rom ∧
    boundsWf rom ∧ floatContents rom ∧ floatFinite rom ∧ backendsPaired b rom

end Sys2Proof.Machine
end

