-- ==== Sys2Proof/Safety.lean ====
section
/-! DEFINITION. What claims are stated in: the invariant of the machine, the states between commands, when a
command's input is in place, and the stages of a transform and the frame sequences as the rules list them. -/

namespace Sys2Proof.Machine

/-- A valid context has a legal rate (10_state.md R27, R28). -/
def ratesLegal (s : State) : Prop :=
  (s.e.valid = true → legalRate s.e.rate.toNat = true) ∧
  (s.d.valid = true → legalRate s.d.rate.toNat = true)

/-- The buffers are in canonical form and inside their capacities (20_memory.md R70, R81). -/
def buffersSound (s : State) : Prop :=
  Memory.wf s.pcm = true ∧ Memory.within s.pcm (pcmCap s) = true ∧
  Memory.wf (w := 8) s.bs = true ∧ Memory.within (w := 8) s.bs (bsCap s) = true

/-- The host's status registers agree with each other (10_state.md R24 to R26): `RESULT` is 0 after an
error, `ERRINFO[15:8]` is 0, `FERR_ANY` says whether `NCONC` is above 0. -/
def statusSound (s : State) : Prop :=
  (s.cmdErr ≠ .ok → s.result = 0#32) ∧
  s.errInfo.extractLsb' 8 8 = 0#8 ∧
  (s.ferrAny = true ↔ s.errInfo.extractLsb' 16 16 ≠ 0#16)

/-- The invariant that every step keeps, whatever `SEQ.PHASE` holds. -/
def State.Inv (s : State) : Prop := ratesLegal s ∧ buffersSound s ∧ statusSound s

/-- Between commands `SEQ.PHASE` is `IDLE` (R33), and in a `FLOAT` build the magnitude shifts are 0 (R31,
R38; the retained one while side `D` has a context). -/
def atRest (s : State) : Prop :=
  s.seq.phase = 0x00#8 ∧
  (s.build.backend = .float →
    s.w.magsh = 0#16 ∧ (s.d.valid = true → s.d.oldshift = 0#16))

/-- The samples `a .. a+n-1` of `PCMBUF` have been written. -/
def samplesReady (s : State) (a n : Nat) : Prop :=
  ∀ i, a ≤ i → i < a + n → (Memory.read s.pcm i).isSome = true

/-- The bytes `a .. a+n-1` of `BSBUF` have been written. -/
def bytesReady (s : State) (a n : Nat) : Prop :=
  ∀ i, a ≤ i → i < a + n → (Memory.read (w := 8) s.bs i).isSome = true

/-- The step ends in a next state. -/
def completes (o : Result) : Prop := ∃ t, o = .next t

/-- One step after another, `n` times, from a state to a state. -/
def reaches : Nat → State → State → Prop
  | 0, s, t => t = s
  | n + 1, s, t => ∃ u, step s = .next u ∧ reaches n u t

/-- Bit `p` of `BSBUF` as one bit stream (20_memory.md R74): bit `7 - p mod 8` of byte `p div 8`. -/
def streamBit (m : List Host.Cell) (p : Nat) : Option Bool :=
  (Memory.read (w := 8) m (p / 8)).map fun b => b.getLsbD (7 - p % 8)

/-- The `n` stream bits from bit `p` on. -/
def streamBits (m : List Host.Cell) (p n : Nat) : List (Option Bool) :=
  (List.range n).map fun i => streamBit m (p + i)

/-- The bits appended and not yet written, oldest first (41_bitstream.md R181). -/
def pendingBits (bw : BitWriter) : List Bool := bitsOf bw.acc.toNat bw.res

/-- The bits fetched and not yet read, next bit first (R186). -/
def heldBits (br : BitReader) : List Bool := bitsOf br.acc.toNat br.res

/-- The reader stands in the frame of `n` bits that starts at byte `base`, `n - REM` bits of it consumed
(R186), and the bits it holds are the frame's next ones. -/
def readerAt (m : List Host.Cell) (br : BitReader) (base n : Nat) : Prop :=
  0 ≤ br.rem ∧ br.rem ≤ n ∧ br.res < 8 ∧
  8 * (br.ptr : Int) - br.res = 8 * base + (n - br.rem) ∧
  (heldBits br).map some = streamBits m (8 * br.ptr - br.res) br.res

/-- The bits of the frame at byte `base`, `n` bits long, that the reader has not consumed, next bit first
(R186, R190). -/
def leftBits (m : List Host.Cell) (br : BitReader) (base n : Nat) : List Bool :=
  (streamBits m (8 * base + (n - br.rem.toNat)) br.rem.toNat).map fun b => b.getD false

/-- A transform in stages over arrays written as functions, as the loops of 42_transform.md R203, R208 and
R209 give it: `a 0` is the input and `a (s + 1)` what stage `s` of part (a) makes of `a s`; `c stages` is the
output of the core, and `c s` what stage `s` of part (c) makes of `c (s + 1)`; the output is `c 0`. -/
def StagedTransform {α : Type} (N stages : Nat) (sum dif : Nat → Nat → α → α → α)
    (core : (Nat → α) → Nat → α) (rot : Rotations α) (table : Nat → Nat → α × α) (x y : Nat → α) :
    Prop :=
  ∃ a c : Nat → Nat → α,
    (∀ p < N, a 0 p = x p) ∧
    (∀ s < stages, ∀ t < 2 ^ s, ∀ j < N / 2 ^ s / 2,
      let span := N / 2 ^ s
      let base := t * span
      let l := a s (base + 2 * j)
      let h := a s (base + 2 * j + 1)
      a (s + 1) (base + j) = sum s j l h ∧ a (s + 1) (base + span - 1 - j) = dif s j l h) ∧
    (∀ g < N / 10, ∀ k < 10,
      c stages (10 * g + k) = core (fun i => a stages (10 * g + i)) k) ∧
    (∀ s < stages, ∀ t < 2 ^ s, ∀ q < N / 2 ^ s / 4,
      let span := N / 2 ^ s
      let half := span / 2
      let base := t * span
      let le := c (s + 1) (base + 2 * q)
      let lo := c (s + 1) (base + 2 * q + 1)
      let he := c (s + 1) (base + half + 2 * q)
      let ho := c (s + 1) (base + half + 2 * q + 1)
      let even := table span (2 * q)
      let odd := table span (2 * q + 1)
      c s (base + 2 * q) = rot.le even.1 even.2 le he ∧
      c s (base + span - 1 - 2 * q) = rot.he even.1 even.2 le he ∧
      c s (base + 2 * q + 1) = rot.lo odd.1 odd.2 lo ho ∧
      c s (base + span - 2 - 2 * q) = rot.ho odd.1 odd.2 lo ho) ∧
    ∀ p < N, y p = c 0 p

/-! The frame sequences as 47_frame_commands.md lists them, in terms of `exec`. -/

/-- A micro-operation in its turn (R380): its code in `SEQ.PHASE`, then its effect. -/
def turn (i : Instr) (s : State) : Result := exec i (s.setPhase (phaseOf i))

/-- What the sequencer writes between two micro-operations. -/
def between (f : State → State) (s : State) : Result := .next (f s)

/-- Frame `f` of `ENCODE`: steps 1 to 12 of R371, with `W.AVAIL <- BPF - W.ENVBITS - CCBITS` (44_region_power.md
R281) after step 7. -/
def encodeFrameOrder (f : Nat) : List (State → Result) :=
  [between fun s => s.setFrame f, turn .loadPcm, turn .winAna, turn .headroom, turn .dct4Fwd, turn .pwrEst,
    turn .pwrAdj, turn .pwrEnc,
    between fun s => s.setW { s.w with
      avail := (s.e.rate.toNat / 50 : Nat) - (s.w.envbits : Int) - s.e.mode.ccbits },
    turn .categorize, turn .rateAdj, turn .bsWinit, turn .pack, turn .bsFlush]

/-- Step 0 of R376 and R383: the flags and the magnitude shift the frame starts with, the underrun flag and
`W.COEF[0..BLK-1]` cleared, `W.RANDSNAP <- D.RAND`. -/
def decoderFrameStart (f : Nat) (ferr : BitVec 4) (magsh : State → I16) (s : State) : State :=
  (s.setFrame f).setW { s.w with
    ferr := ferr, underrun := false, magsh := magsh s, randsnap := s.d.rand
    coef := match s.build.backend with
      | .fixed => { s.w.coef with fx := vfill s.w.coef.fx s.d.mode.blk fun _ => 0#16 }
      | .float => { s.w.coef with fl := vfill s.w.coef.fl s.d.mode.blk fun _ => Config.fOfInt 0 } }

/-- Steps 9 to 13 of R376 and R383; the frame end collects the frame's flags (60_exceptions.md R411). -/
def decoderFrameEnd : List (State → Result) :=
  [turn .conceal, turn .dct4Inv, turn .winSyn, turn .storePcm,
    between fun s => s.setSeq { s.seq with
      last := s.w.ferr, orf := s.seq.orf ||| s.w.ferr
      nconc := if s.w.ferr = 0#4 then s.seq.nconc
        else BitVec.ofNat 16 (min 65535 (s.seq.nconc.toNat + 1)) }]

/-- Steps 3 to 8 of R376, with `W.AVAIL <- D.BR.REM` as step 4 and the region loop as step 7. -/
def decodeFrameMiddle (m : Mode) : List (State → Result) :=
  [turn .sdShift, between fun s => s.setW { s.w with avail := s.d.br.rem }, turn .categorize,
    turn .catReplay] ++
  ((List.range m.nreg).flatMap fun r =>
    [between fun s => s.setRegion r, turn .vqDec, turn .noiseFill]) ++
  [turn .frameCheck]

/-- Frame `f` of `DECODE` (R376): steps 3 to 8 are skipped when `PWR_DEC` met the end of the frame, which is
read from `OVERRUN` (44_region_power.md R285; log entry 24, DEDUCED). -/
def decodeFrameOrder (m : Mode) (f : Nat) : List (State → Result) :=
  [between (decoderFrameStart f 0#4 fun s => s.w.magsh), turn .bsRinit, turn .pwrDec,
    fun s => if s.w.ferr.getLsbD 1 then .next s else runAll (decodeFrameMiddle m) s] ++
  decoderFrameEnd

/-- Frame `f` of `FILL_IN` (R383; 60_exceptions.md R410). -/
def fillFrameOrder (f : Nat) : List (State → Result) :=
  between (decoderFrameStart f 8#4 fun _ => 0#16) :: decoderFrameEnd

/-- Frames `0 .. k-1`, one after the other (R380). -/
def frames (k : Nat) (order : Nat → List (State → Result)) : State → Result :=
  runAll ((List.range k).flatMap order)

/-- After `CMD_CHECK` (R360), with the accumulators of `DECODE` and `FILL_IN` cleared (R411). -/
def frameCommandStart (c : Word) (n : Nat) (clear : Bool) (s : State) : State :=
  let q := { s.seq with cmd := c, nframes := n }
  s.setSeq (if clear then { q with last := 0#4, orf := 0#4, nconc := 0#16 } else q)

/-- The end of a command (R361): `CMDERR`, `RESULT` and `SEQ.PHASE`. -/
def frameCommandEnd (units : Nat) (s : State) : State :=
  { s with cmdErr := .ok, result := BitVec.ofNat 32 units, seq := { s.seq with phase := 0x00#8 } }

/-- The end of `DECODE` and `FILL_IN` (R411): `ERRINFO` and `FERR_ANY` first. -/
def decoderCommandEnd (units : Nat) (s : State) : State :=
  frameCommandEnd units { s with
    errInfo := s.seq.last.setWidth 32 ||| (s.seq.orf.setWidth 32 <<< 4) |||
      (s.seq.nconc.setWidth 32 <<< 16)
    ferrAny := decide (0 < s.seq.nconc.toNat) }

/-- A frame of whole bytes, all written, inside the capacity. -/
def frameReady (s : State) (base n : Nat) : Prop :=
  n % 8 = 0 ∧ bytesReady s base (n / 8) ∧ base + n / 8 ≤ bsCap s

/-- Both buffers read at every address as before. -/
def sameBuffers (s t : State) : Prop :=
  (∀ a, Memory.read t.pcm a = Memory.read s.pcm a) ∧
  ∀ a, Memory.read (w := 8) t.bs a = Memory.read (w := 8) s.bs a

/-- Everything but the frame working registers is the same. -/
def sameButWork (s t : State) : Prop := t.setW s.w = s

/-- The two outcomes are of one kind and agree on everything but the frame working registers. -/
def agreeButWork (a b : Result) : Prop :=
  match a, b with
  | .next s, .next t => sameButWork s t
  | .fault f, .fault g => f = g
  | .refused f, .refused g => f = g
  | _, _ => False

end Sys2Proof.Machine
end

