-- ==== Sys2Proof/Certificates/Slice0/Obligations.lean ====
section
/-! DEFINITION. The statements for the provers. The docstring of each names the rules of spec/ it
formalises. -/

open Sys2Proof Sys2Proof.Machine

/-! ## Encoding -/

/-- 30_encoding.md R101, R102, R104, R105: a code word decodes to an instruction exactly when it is that
instruction's encoding and the instruction's side is legal; every other word is rejected. -/
def Obligations.DecodingAcceptsExactlyTheEncodings : Prop :=
  ∀ (c : CodeWord) (i : Instr), decode c = .ok i ↔ i.wellFormed = true ∧ encode i = c

/-- R102, R104: the nine legal command words, three illegal ones, and one phase code of each family. -/
def Obligations.TabulatedWordsDecodeAsWritten : Prop :=
  decode (.cmd 0x01000000#32) = .ok (.init .enc) ∧ decode (.cmd 0x01800000#32) = .ok (.init .dec) ∧
  decode (.cmd 0x02000000#32) = .ok (.setRate .enc) ∧
  decode (.cmd 0x02800000#32) = .ok (.setRate .dec) ∧
  decode (.cmd 0x03000000#32) = .ok (.encode .enc) ∧
  decode (.cmd 0x04800000#32) = .ok (.decode .dec) ∧
  decode (.cmd 0x05800000#32) = .ok (.fillIn .dec) ∧
  decode (.cmd 0x06000000#32) = .ok (.release .enc) ∧
  decode (.cmd 0x06800000#32) = .ok (.release .dec) ∧
  decode (.cmd 0x03800000#32) = .error (.illegalSide 0x03#8 .dec) ∧
  decode (.cmd 0x01000001#32) = .error (.reservedBits 1#23) ∧
  decode (.cmd 0x00000000#32) = .error (.reservedOpcode 0x00#8) ∧
  decode (.phase 0x01#8) = .ok .cmdCheck ∧ decode (.phase 0x10#8) = .ok .bsPut ∧
  decode (.phase 0x21#8) = .ok .dct4Inv ∧ decode (.phase 0x32#8) = .ok .winSyn ∧
  decode (.phase 0x43#8) = .ok .pwrDec ∧ decode (.phase 0x51#8) = .ok .catReplay ∧
  decode (.phase 0x62#8) = .ok .noiseFill ∧ decode (.phase 0x71#8) = .ok .conceal

/-! ## The step -/

/-- 10_state.md R22, R33; 70_reset_and_hazards.md R450: a step runs the instruction that the decoder reads,
a whole command inside a write to `CMD`. The clauses of one micro-operation and the sequencer's advance while
`SEQ.PHASE` is not `IDLE`, and of a row's word placed by `withFetchWord`, are the model's choice (log entry
8, DESIGN CHOICE). -/
def Obligations.StepRunsTheDecodedInstruction : Prop :=
  (∀ (s : State) (w : Word) (rest : List HostAccess) (i : Instr),
    s.seq.phase = 0x00#8 → s.host.pending = .regWrite 0x00 32 w :: rest →
    decodeCommand w = .ok i →
    step s = exec i (s.setHost { s.host with pending := rest, cmdWord := w })) ∧
  (∀ (s : State) (i : Instr), s.seq.phase ≠ 0x00#8 → decodePhase s.seq.phase = .ok i →
    step s = thenDo (exec i s) fun t => .next (advance i t)) ∧
  (∀ s : State, s.seq.phase = 0x00#8 → s.host.pending = [] → step s = exec .idle s) ∧
  (∀ (s : State) (w : Nat) (i : Instr), decodeTableWord 32 w = some i →
    step (s.withFetchWord 32 w) =
      exec i ((s.setPhase 0x00#8).setHost { s.host with cmdWord := BitVec.ofNat 32 w })) ∧
  (∀ (s : State) (w : Nat) (i : Instr), decodeTableWord 8 w = some i → i ≠ .idle →
    step (s.withFetchWord 8 w) =
      thenDo (exec i (s.setPhase (phaseOf i))) fun t => .next (advance i t)) ∧
  (∀ s : State, step (s.withFetchWord 8 0) =
    exec .idle ((s.setPhase 0x00#8).setHost { s.host with pending := [] }))

/-- R450, 47_frame_commands.md R371, R376, R380, R383: a command as one step, and the same command one
micro-operation a step from `CMD_CHECK` on, end in the same state. And a frame command that passes its checks
is its frames in order, each the micro-operations of its rule in the rule's order with the sequencer's writes
between them, and then the command's end (Safety.lean lists them); where one of them stops, the command does.
The stepping by micro-operations is the model's choice (log entry 8, DESIGN CHOICE); so is `RESULT` modulo 2^32
(log entry 15, DESIGN CHOICE), and that the skip after `PWR_DEC` is read from `OVERRUN` is the model's reading
(log entry 24, DEDUCED). -/
def Obligations.MicroStepsReachTheCommandsState : Prop :=
  (∀ (i : Instr) (s t : State), i.isCommand = true → i.wellFormed = true →
    s.host.cmdWord = wordOf i → s.seq.phase = 0x00#8 → exec i s = .next t →
    ∃ n, reaches (n + 1) (s.setPhase 0x01#8) t) ∧
  (∀ s : State,
    let n := s.arg0.toNat / s.e.mode.blk
    s.e.valid = true → n ≤ s.build.maxFrames →
    exec (.encode .enc) s =
      runAll [between (frameCommandStart 0x03000000#32 n false), frames n encodeFrameOrder,
        between (frameCommandEnd (n * (s.e.rate.toNat / 50 / 8)))] s) ∧
  ∀ s : State,
    let n := s.arg0.toNat / (s.d.rate.toNat / 50 / 8)
    s.d.valid = true → n ≤ s.build.maxFrames →
    exec (.decode .dec) s =
      runAll [between (frameCommandStart 0x04800000#32 n true), frames n (decodeFrameOrder s.d.mode),
        between (decoderCommandEnd (n * s.d.mode.blk))] s ∧
    exec (.fillIn .dec) s =
      runAll [between (frameCommandStart 0x05800000#32 n true), frames n fillFrameOrder,
        between (decoderCommandEnd (n * s.d.mode.blk))] s

/-- The model's invariant, over every step from every state (R27, R28, 20_memory.md R70, R81,
10_state.md R24 to R26). -/
def Obligations.EveryStepKeepsTheStateSound : Prop :=
  ∀ s t : State, s.Inv → step s = .next t → t.Inv

/-- The invariant and the rest condition hold right after reset. -/
def Obligations.ResetStateIsSoundAndAtRest : Prop := State.reset.Inv ∧ atRest State.reset

/-- R33, R38, R450: a step between commands ends between commands, and a `FLOAT` build keeps its
magnitude shifts 0. -/
def Obligations.EveryStepBetweenCommandsEndsAtRest : Prop :=
  ∀ s t : State, atRest s → step s = .next t → atRest t

/-- R57 (a), R440: what reset leaves in the registers that have a reset value. The buffers have nothing
written and every context is absent; no value the model chose is stated. -/
def Obligations.ResetLeavesTheStatedValues : Prop :=
  State.reset.e.valid = false ∧ State.reset.d.valid = false ∧ State.reset.arg0 = 0#32 ∧
  State.reset.arg1 = 0#32 ∧ State.reset.cmdErr = .ok ∧ State.reset.ferrAny = false ∧
  State.reset.result = 0#32 ∧ State.reset.errInfo = 0#32 ∧ State.reset.seq.phase = 0x00#8 ∧
  State.reset.build = Config.build ∧ ∀ a, Memory.read State.reset.pcm a = none ∧
    Memory.read (w := 8) State.reset.bs a = none

/-- R20, R23, R27, R79, R87, 20_memory.md R78, R85: what no instruction writes, and what each family leaves
alone. -/
def Obligations.InstructionsLeaveAloneWhatTheirRulesDoNotName : Prop :=
  ∀ (i : Instr) (s t : State), exec i s = .next t →
    (t.build = s.build ∧ t.arg0 = s.arg0 ∧ t.arg1 = s.arg1 ∧ t.host = s.host) ∧
    ((∀ side, i ≠ .encode side) → (∀ side, i ≠ .decode side) → (∀ side, i ≠ .fillIn side) →
      i ≠ .storePcm → i ≠ .bsPut → i ≠ .bsFlush → i ≠ .pack → sameBuffers s t) ∧
    (i.isCommand = false → i ≠ .cmdCheck →
      t.cmdErr = s.cmdErr ∧ t.result = s.result ∧ t.ferrAny = s.ferrAny ∧ t.errInfo = s.errInfo ∧
        t.seq = s.seq) ∧
    (∀ side, i = .encode side → t.d = s.d ∧ t.ferrAny = s.ferrAny ∧ t.errInfo = s.errInfo ∧
      ∀ a, Memory.read t.pcm a = Memory.read s.pcm a) ∧
    (∀ side, i = .decode side ∨ i = .fillIn side → t.e = s.e ∧
      ∀ a, Memory.read (w := 8) t.bs a = Memory.read (w := 8) s.bs a) ∧
    (∀ side, i = .fillIn side → t.d.br = s.d.br)

/-- R368 with R27, R28: the life cycle of the two contexts, over every instruction. -/
def Obligations.ContextsChangeOnlyByTheirCommands : Prop :=
  ∀ (i : Instr) (s t : State), exec i s = .next t →
    (t.e.valid ≠ s.e.valid → i = .init .enc ∨ i = .release .enc) ∧
    (t.d.valid ≠ s.d.valid → i = .init .dec ∨ i = .release .dec) ∧
    (t.e.mode ≠ s.e.mode → i = .init .enc ∨ i = .release .enc) ∧
    (t.d.mode ≠ s.d.mode → i = .init .dec ∨ i = .release .dec) ∧
    (t.e.rate ≠ s.e.rate → i = .init .enc ∨ i = .setRate .enc ∨ i = .release .enc) ∧
    (t.d.rate ≠ s.d.rate → i = .init .dec ∨ i = .setRate .dec ∨ i = .release .dec)

/-- 70_reset_and_hazards.md R441, R457, 10_state.md R36: no result of a command depends on what the frame
working registers held before it, given the category metadata of a conforming ROM. -/
def Obligations.CommandsDoNotReadOldWorkRegisters : Prop :=
  ∀ (i : Instr) (s : State) (w : WorkRegs), i.isCommand = true → categoryWf s.build.rom →
    agreeButWork (exec i s) (exec i (s.setW w))

/-! ## Command errors -/

/-- R105, 60_exceptions.md R403: which words are illegal, and that such a write to `CMD` changes nothing but
`CMDERR` and `RESULT` (and the host's own queue). -/
def Obligations.IllegalCommandWordsReportIllCmdOnly : Prop :=
  ∀ w : Word,
    let opc := w.toNat / 2 ^ 24
    let side := w.toNat / 2 ^ 23 % 2
    let low := w.toNat % 2 ^ 23
    let illegal : Prop :=
      opc = 0 ∨ 7 ≤ opc ∨ low ≠ 0 ∨ (opc = 3 ∧ side = 1) ∨ ((opc = 4 ∨ opc = 5) ∧ side = 0)
    (illegal ↔ ∃ e, decodeCommand w = .error e) ∧
    (illegal → ∀ (s : State) (rest : List HostAccess), s.seq.phase = 0x00#8 →
      s.host.pending = .regWrite 0x00 32 w :: rest →
      step s = .next { s with
        cmdErr := .illCmd, result := 0#32, host := { s.host with pending := rest, cmdWord := w } })

/-- R402, R405: a command on a side without a context reports `NO_CTX` and does nothing else. -/
def Obligations.CommandsWithoutContextReportNoCtxOnly : Prop :=
  ∀ (i : Instr) (side : Side) (s : State),
    (i = .setRate side ∨ i = .release side ∨ (side = .enc ∧ i = .encode .enc) ∨
      (side = .dec ∧ (i = .decode .dec ∨ i = .fillIn .dec))) →
    validOf s side = false →
    exec i s = .next { s with
      cmdErr := .noCtx, result := 0#32, seq := { s.seq with phase := 0x00#8 } }

/-- R401, R103, R405: an illegal rate or mode selector reports `CFG_ERR` and does nothing else. -/
def Obligations.IllegalOperandsReportCfgErrOnly : Prop :=
  ∀ (side : Side) (s : State),
    let legal : Prop := 16000 ≤ s.arg0.toNat ∧ s.arg0.toNat ≤ 48000 ∧ s.arg0.toNat % 800 = 0
    let refused := { s with
      cmdErr := .cfgErr, result := 0#32, seq := { s.seq with phase := 0x00#8 } }
    ((¬ legal ∨ (s.arg1.toNat ≠ 16000 ∧ s.arg1.toNat ≠ 32000)) →
      exec (.init side) s = .next refused) ∧
    (validOf s side = true → ¬ legal → exec (.setRate side) s = .next refused)

/-- R404, R405: more frames than the buffers hold report `BUF_ERR` and nothing else happens. -/
def Obligations.TooManyFramesReportBufErrOnly : Prop :=
  ∀ s : State,
    let refused := { s with
      cmdErr := .bufErr, result := 0#32, seq := { s.seq with phase := 0x00#8 } }
    (s.e.valid = true → s.build.maxFrames < s.arg0.toNat / s.e.mode.blk →
      exec (.encode .enc) s = .next refused) ∧
    (s.d.valid = true → s.build.maxFrames < s.arg0.toNat / (s.d.rate.toNat / 50 / 8) →
      exec (.decode .dec) s = .next refused ∧ exec (.fillIn .dec) s = .next refused)

/-! ## Context commands -/

/-- R362, R58: `INIT` gives its side the listed values and nothing else changes but the status, `SEQ.CMD`
and `SEQ.NFRAMES`. R360 writes those two; that they keep the command's values after it is the model's choice
(log entry 18, DESIGN CHOICE; R59 calls them unspecified). -/
def Obligations.InitGivesItsSideTheInitialValues : Prop :=
  ∀ (s : State) (m : Mode),
    16000 ≤ s.arg0.toNat → s.arg0.toNat ≤ 48000 → s.arg0.toNat % 800 = 0 →
    s.arg1 = (match m with | .nb => 16000#32 | .wb => 32000#32) →
    (∃ hist : SigReg 640,
      exec (.init .enc) s = .next { s with
        cmdErr := .ok
        result := 0#32
        seq := { s.seq with cmd := 0x01000000#32, nframes := 0, phase := 0x00#8 }
        e := { valid := true, mode := m, rate := BitVec.ofNat 16 s.arg0.toNat, hist := hist,
               bw := { acc := 0#32, res := 0, ptr := 0 } } } ∧
      (s.build.backend = .fixed → ∀ i < 640, vget hist.fx i = 0#16) ∧
      (s.build.backend = .float → ∀ i < 640, vget hist.fl i = Config.fOfInt 0)) ∧
    (∃ (oldcoef : SigReg 640) (oldsamp : SigReg 320),
      exec (.init .dec) s = .next { s with
        cmdErr := .ok
        result := 0#32
        seq := { s.seq with cmd := 0x01800000#32, nframes := 0, phase := 0x00#8 }
        d := { valid := true, mode := m, rate := BitVec.ofNat 16 s.arg0.toNat, oldcoef := oldcoef,
               oldshift := 0#16, oldsamp := oldsamp, rand := s.build.prngSeed,
               br := { acc := 0#32, res := 0, ptr := 0, rem := 0 } } } ∧
      (s.build.backend = .fixed →
        (∀ i < 640, vget oldcoef.fx i = 0#16) ∧ ∀ i < 320, vget oldsamp.fx i = 0#16) ∧
      (s.build.backend = .float →
        (∀ i < 640, vget oldcoef.fl i = Config.fOfInt 0) ∧
        ∀ i < 320, vget oldsamp.fl i = Config.fOfInt 0))

/-- R365: `SET_RATE` writes the rate of its side and nothing else but the status, `SEQ.CMD` and
`SEQ.NFRAMES`. R360 writes those two; that they keep the command's values after it is the model's choice (log
entry 18, DESIGN CHOICE). -/
def Obligations.SetRateChangesOnlyTheRate : Prop :=
  ∀ s : State, 16000 ≤ s.arg0.toNat → s.arg0.toNat ≤ 48000 → s.arg0.toNat % 800 = 0 →
    (s.e.valid = true →
      exec (.setRate .enc) s = .next { s with
        cmdErr := .ok
        result := 0#32
        seq := { s.seq with cmd := 0x02000000#32, nframes := 0, phase := 0x00#8 }
        e := { s.e with rate := BitVec.ofNat 16 s.arg0.toNat } }) ∧
    (s.d.valid = true →
      exec (.setRate .dec) s = .next { s with
        cmdErr := .ok
        result := 0#32
        seq := { s.seq with cmd := 0x02800000#32, nframes := 0, phase := 0x00#8 }
        d := { s.d with rate := BitVec.ofNat 16 s.arg0.toNat } })

/-- R367: `RELEASE` ends its side's context; that side's other registers may hold anything (free values, log
entry 12), the rest is as before. R360 writes `SEQ.CMD` and `SEQ.NFRAMES`; that they keep the command's values
after it is the model's choice (log entry 18, DESIGN CHOICE). -/
def Obligations.ReleaseInvalidatesItsSide : Prop :=
  ∀ s : State,
    (s.e.valid = true → ∃ e : Encoder, e.valid = false ∧
      exec (.release .enc) s = .next { s with
        cmdErr := .ok
        result := 0#32
        seq := { s.seq with cmd := 0x06000000#32, nframes := 0, phase := 0x00#8 }
        e := e
        freeCount := s.freeCount + 1 }) ∧
    (s.d.valid = true → ∃ d : Decoder, d.valid = false ∧
      exec (.release .dec) s = .next { s with
        cmdErr := .ok
        result := 0#32
        seq := { s.seq with cmd := 0x06800000#32, nframes := 0, phase := 0x00#8 }
        d := d
        freeCount := s.freeCount + 1 })

/-! ## Frame commands -/

/-- R370, R372 (a), R107, R79: `ENCODE` of written samples completes, writes exactly
`NFRAMES * RATE / 400` bytes and nothing else of either buffer. -/
def Obligations.EncodeCompletesWithWholeFrames : Prop :=
  ∀ s : State, s.e.valid = true → legalRate s.e.rate.toNat = true →
    s.arg0.toNat / s.e.mode.blk ≤ s.build.maxFrames →
    samplesReady s 0 (s.arg0.toNat / s.e.mode.blk * s.e.mode.blk) →
    ∃ t, exec (.encode .enc) s = .next t ∧
      t.cmdErr = .ok ∧
      t.result.toNat = s.arg0.toNat / s.e.mode.blk * (s.e.rate.toNat / 400) ∧
      t.seq.phase = 0x00#8 ∧
      (∀ a < s.arg0.toNat / s.e.mode.blk * (s.e.rate.toNat / 400),
        (Memory.read (w := 8) t.bs a).isSome = true) ∧
      (∀ a, s.arg0.toNat / s.e.mode.blk * (s.e.rate.toNat / 400) ≤ a →
        Memory.read (w := 8) t.bs a = Memory.read (w := 8) s.bs a) ∧
      (∀ a, Memory.read t.pcm a = Memory.read s.pcm a) ∧
      t.d = s.d ∧ t.arg0 = s.arg0 ∧ t.arg1 = s.arg1 ∧ t.ferrAny = s.ferrAny ∧
      t.errInfo = s.errInfo ∧ t.build = s.build ∧ t.host = s.host ∧ t.port = s.port ∧
      t.e.valid = true ∧ t.e.mode = s.e.mode ∧ t.e.rate = s.e.rate

/-- R375, R378, R120, R411: `DECODE` of written bytes completes whatever they hold, writes exactly
`NFRAMES * BLK` samples and nothing else of either buffer. That `RESULT` is the count modulo 2^32 is the model's
choice (log entry 15, DESIGN CHOICE). -/
def Obligations.DecodeCompletesOnAnyBytes : Prop :=
  ∀ s : State, s.d.valid = true → legalRate s.d.rate.toNat = true →
    s.arg0.toNat / (s.d.rate.toNat / 400) ≤ s.build.maxFrames →
    bytesReady s 0 (s.arg0.toNat / (s.d.rate.toNat / 400) * (s.d.rate.toNat / 400)) →
    ∃ t, exec (.decode .dec) s = .next t ∧
      t.cmdErr = .ok ∧
      t.result = BitVec.ofNat 32 (s.arg0.toNat / (s.d.rate.toNat / 400) * s.d.mode.blk) ∧
      t.seq.phase = 0x00#8 ∧
      (∀ a < s.arg0.toNat / (s.d.rate.toNat / 400) * s.d.mode.blk,
        (Memory.read t.pcm a).isSome = true) ∧
      (∀ a, s.arg0.toNat / (s.d.rate.toNat / 400) * s.d.mode.blk ≤ a →
        Memory.read t.pcm a = Memory.read s.pcm a) ∧
      (∀ a, Memory.read (w := 8) t.bs a = Memory.read (w := 8) s.bs a) ∧
      t.errInfo.extractLsb' 8 8 = 0#8 ∧
      (t.ferrAny = true ↔ t.errInfo.extractLsb' 16 16 ≠ 0#16) ∧
      t.e = s.e ∧ t.arg0 = s.arg0 ∧ t.arg1 = s.arg1 ∧ t.build = s.build ∧ t.host = s.host ∧
      t.port = s.port ∧ t.d.valid = true ∧ t.d.mode = s.d.mode ∧ t.d.rate = s.d.rate

/-- R383, R410, R411: `FILL_IN` completes with no input, records every frame as erased, and leaves the
generator, the read cursor and `BSBUF` alone. That `RESULT` is the count modulo 2^32 is the model's choice (log
entry 15, DESIGN CHOICE). -/
def Obligations.FillInCompletesFromHistoryAlone : Prop :=
  ∀ s : State, s.d.valid = true → legalRate s.d.rate.toNat = true →
    s.arg0.toNat / (s.d.rate.toNat / 400) ≤ s.build.maxFrames →
    ∃ t, exec (.fillIn .dec) s = .next t ∧
      t.cmdErr = .ok ∧
      t.result = BitVec.ofNat 32 (s.arg0.toNat / (s.d.rate.toNat / 400) * s.d.mode.blk) ∧
      t.seq.phase = 0x00#8 ∧
      t.errInfo = (if s.arg0.toNat / (s.d.rate.toNat / 400) = 0 then 0#32
        else BitVec.ofNat 32
          (min 65535 (s.arg0.toNat / (s.d.rate.toNat / 400)) * 65536 + 0x88)) ∧
      (t.ferrAny = true ↔ 0 < s.arg0.toNat / (s.d.rate.toNat / 400)) ∧
      (∀ a < s.arg0.toNat / (s.d.rate.toNat / 400) * s.d.mode.blk,
        (Memory.read t.pcm a).isSome = true) ∧
      (∀ a, s.arg0.toNat / (s.d.rate.toNat / 400) * s.d.mode.blk ≤ a →
        Memory.read t.pcm a = Memory.read s.pcm a) ∧
      (∀ a, Memory.read (w := 8) t.bs a = Memory.read (w := 8) s.bs a) ∧
      t.d.rand = s.d.rand ∧ t.d.br = s.d.br ∧ t.d.valid = true ∧ t.d.mode = s.d.mode ∧
      t.d.rate = s.d.rate ∧ t.e = s.e ∧ t.arg0 = s.arg0 ∧ t.arg1 = s.arg1 ∧ t.build = s.build ∧
      t.host = s.host ∧ t.port = s.port

/-- 60_exceptions.md R412 to R414, scenario E5: two `DECODE`s that start in the same state but for the bytes
of `BSBUF`, and in which every frame is bad, leave the same decoder (but for its read cursor) and the same
samples. -/
def Obligations.BadFramesLeaveNoTraceOfTheirBytes : Prop :=
  ∀ (s t u : State) (m : List Host.Cell),
    exec (.decode .dec) s = .next t → exec (.decode .dec) (s.setBs m) = .next u →
    s.d.valid = true → nframesOf (.decode .dec) s ≤ s.build.maxFrames →
    nframesOf (.decode .dec) s ≤ 65535 →
    (t.errInfo.extractLsb' 16 16).toNat = nframesOf (.decode .dec) s →
    (u.errInfo.extractLsb' 16 16).toNat = nframesOf (.decode .dec) s →
    { t.d with br := u.d.br } = u.d ∧ t.pcm = u.pcm

/-- 44_region_power.md R280, R283, R286, 47_frame_commands.md R374, 41_bitstream.md R192: the header that
`PWR_ENC` and `PACK` write into a frame is the one `PWR_DEC` reads from it, for a ROM whose envelope codes
and trees agree and a header that fits. -/
def Obligations.FrameHeaderSurvivesTheWire : Prop :=
  ∀ s t : State, envelopeCodeWf s.build.rom → legalRate s.e.rate.toNat = true →
    s.d.rate = s.e.rate → s.d.mode = s.e.mode → s.w.ferr = 0#4 →
    (∀ r, 1 ≤ r → r < s.e.mode.nreg → (vget s.w.sym r).val < 24) →
    s.w.catctl.val < s.e.mode.nposs →
    envelopeLength s.build.rom (fun r => (vget s.w.sym r).val) s.e.mode.nreg + s.e.mode.ccbits ≤
      encBpf s →
    runAll [exec .pwrEnc, exec .bsWinit, exec .pack, exec .bsFlush, exec .bsRinit, exec .pwrDec] s =
      .next t →
    t.w.ferr = 0#4 ∧ t.w.catctl = s.w.catctl ∧
    (vget t.w.abs 0).toInt = (vget s.w.sym 0).val - 9 ∧
    (∀ r, r + 1 < s.e.mode.nreg →
      (vget t.w.abs (r + 1)).toInt = (vget t.w.abs r).toInt + (vget s.w.sym (r + 1)).val - 12) ∧
    t.d.br.rem = (encBpf s : Int) -
      envelopeLength s.build.rom (fun r => (vget s.w.sym r).val) s.e.mode.nreg - s.e.mode.ccbits

/-! ## Sequencer -/

/-- R33, R360: `IDLE` changes nothing; `CMD_CHECK` records the command whose checks pass and reports the
first check that fails. -/
def Obligations.IdleAndCommandCheckFollowTheirRules : Prop :=
  (∀ s : State, exec .idle s = .next s) ∧
  (∀ (s : State) (i : Instr) (n : Nat), checkCommand s.host.cmdWord s = .ok (i, n) →
    exec .cmdCheck s = .next { s with
      seq := { s.seq with cmd := s.host.cmdWord, nframes := n } }) ∧
  (∀ (s : State) (err : CmdErr), checkCommand s.host.cmdWord s = .error err →
    exec .cmdCheck s = .next { s with
      cmdErr := err, result := 0#32, seq := { s.seq with phase := 0x00#8 } })

/-- 47_frame_commands.md R373: `LOAD_PCM` copies the frame's samples if they have been written; the first one
that has not is a fault (10_state.md R57). That a frame outside the capacity is a fault is the model's choice (log entry
13, DESIGN CHOICE): 20_memory.md R81 only says that no command gets there. The capacity is a multiple of 640 samples
(R70) and a frame starts at a multiple of its 320 or 640, so that no frame is partly outside. -/
def Obligations.LoadPcmCopiesTheFrameOrFaults : Prop :=
  ∀ s : State,
    let n := s.e.mode.blk
    let base := s.seq.frame * n
    (samplesReady s base n → base + n ≤ pcmCap s →
      ∃ v, exec .loadPcm s = .next (s.setW { s.w with pcm := v }) ∧
        (∀ i < n, some (vget v i) = Memory.read s.pcm (base + i)) ∧
        ∀ i, n ≤ i → vget v i = vget s.w.pcm i) ∧
    (∀ k < n, samplesReady s base k → base + k < pcmCap s → Memory.read s.pcm (base + k) = none →
      exec .loadPcm s = .fault (.pcmUnwritten (base + k))) ∧
    (pcmCap s ≤ base → exec .loadPcm s = .fault (.pcmCapacity base))

/-- R379, 42_transform.md R215: `STORE_PCM` writes the frame's samples, an `F` value rounded to the nearest
integer, ties to even, and saturated, an infinity saturated by its sign, and no other cell. That it faults
outside the capacity is the model's choice (log entry 13, DESIGN CHOICE). -/
def Obligations.StorePcmWritesTheFramesSamples : Prop :=
  ∀ s : State,
    let n := s.d.mode.blk
    let base := s.seq.frame * n
    (pcmCap s < base + n → exec .storePcm s = .fault (.pcmCapacity (max base (pcmCap s)))) ∧
    (base + n ≤ pcmCap s → ∃ m, exec .storePcm s = .next (s.setPcm m) ∧
      (s.build.backend = .fixed →
        ∀ i < n, Memory.read m (base + i) = some (vget s.w.out.fx i)) ∧
      (s.build.backend = .float → ∀ i < n,
        let v := vget s.w.out.fl i
        ∃ x : I16, Memory.read m (base + i) = some x ∧
          ((∀ negative, Config.fKind v ≠ .infinity negative) →
            x.toInt = max (-32768) (min 32767 (Config.fRint v))) ∧
          (∀ q : ℚ, Config.fKind v = .number q → ∀ k : Int, |q - k| ≤ 1 / 2 →
            (|q - k| = 1 / 2 → k % 2 = 0) → x.toInt = max (-32768) (min 32767 k)) ∧
          ∀ negative, Config.fKind v = .infinity negative →
            x.toInt = if negative then -32768 else 32767) ∧
      ∀ a, a < base ∨ base + n ≤ a → Memory.read m a = Memory.read s.pcm a)

/-! ## Bitstream -/

/-- 41_bitstream.md R182, R183, R191; 20_memory.md R74: `BS_PUT` appends the low `nbits` bits of the value to
the pending ones, most significant first, and writes the full bytes. -/
def Obligations.BsPutAppendsTheFieldToTheStream : Prop :=
  ∀ s : State,
    let n := s.port.nbits
    let k := (s.e.bw.res + n) / 8
    let q := pendingBits s.e.bw ++ bitsOf s.port.value.toNat n
    1 ≤ n → n ≤ 32 → s.e.bw.res ≤ 7 → (k = 0 ∨ s.e.bw.ptr + k ≤ bsCap s) →
    ∃ (bw : BitWriter) (m : List Host.Cell),
      exec .bsPut s = .next ((s.setE { s.e with bw := bw }).setBs m) ∧
      bw.ptr = s.e.bw.ptr + k ∧ bw.res = (s.e.bw.res + n) % 8 ∧
      pendingBits bw = q.drop (8 * k) ∧
      streamBits m (8 * s.e.bw.ptr) (8 * k) = (q.take (8 * k)).map some ∧
      ∀ a, a < s.e.bw.ptr ∨ s.e.bw.ptr + k ≤ a →
        Memory.read (w := 8) m a = Memory.read (w := 8) s.bs a

/-- R182, R187, R188: widths outside 1..32 are refused. That a write past the end of `BSBUF` is a fault, and its
index, are the model's choice (log entry 13, DESIGN CHOICE): 20_memory.md R81 only says that no command gets
there. -/
def Obligations.FieldWidthsOutsideRangeAreRefused : Prop :=
  (∀ s : State, s.port.nbits = 0 ∨ 33 ≤ s.port.nbits →
    exec .bsPut s = .refused (.fieldWidth s.port.nbits) ∧
    exec .bsGet s = .refused (.fieldWidth s.port.nbits)) ∧
  (∀ s : State, 1 ≤ s.port.nbits → s.port.nbits ≤ 32 → 8 ≤ s.e.bw.res + s.port.nbits →
    bsCap s < s.e.bw.ptr + (s.e.bw.res + s.port.nbits) / 8 →
    exec .bsPut s = .fault (.bsCapacity (max s.e.bw.ptr (bsCap s))))

/-- R184: `BS_FLUSH` left-justifies the pending bits in one more byte, zero-padded; with none pending it
changes nothing. That it faults outside the capacity is the model's choice (log entry 13, DESIGN CHOICE). -/
def Obligations.BsFlushPadsTheLastByteWithZeros : Prop :=
  ∀ s : State,
    (s.e.bw.res = 0 → exec .bsFlush s = .next s) ∧
    (1 ≤ s.e.bw.res → s.e.bw.res ≤ 7 → s.e.bw.ptr < bsCap s →
      ∃ m, exec .bsFlush s =
          .next ((s.setE { s.e with bw := { s.e.bw with res := 0, ptr := s.e.bw.ptr + 1 } }).setBs m) ∧
        streamBits m (8 * s.e.bw.ptr) 8 =
          (pendingBits s.e.bw ++ List.replicate (8 - s.e.bw.res) false).map some ∧
        ∀ a, a ≠ s.e.bw.ptr → Memory.read (w := 8) m a = Memory.read (w := 8) s.bs a) ∧
    (1 ≤ s.e.bw.res → bsCap s ≤ s.e.bw.ptr → exec .bsFlush s = .fault (.bsCapacity s.e.bw.ptr))

/-- R185, R189: the cursors start at the frame's first byte with nothing held, `REM` at `BPF`. -/
def Obligations.CursorsStartAtTheFramesFirstByte : Prop :=
  ∀ s : State,
    exec .bsWinit s = .next (s.setE { s.e with
      bw := { acc := 0#32, res := 0, ptr := s.seq.frame * (s.e.rate.toNat / 50 / 8) } }) ∧
    exec .bsRinit s = .next (s.setD { s.d with
      br := { acc := 0#32, res := 0, ptr := s.seq.frame * (s.d.rate.toNat / 50 / 8),
              rem := (s.d.rate.toNat / 50 : Nat) } })

/-- R187, R188, R74: `BS_GET` delivers the next `nbits` bits of the stream as a number, most significant
first, fetching only the bytes it needs, and does not touch `REM`. R57 leaves the buffers unspecified; that a byte
nothing has written is a fault is the model's choice (log entry 3, DESIGN CHOICE). -/
def Obligations.BsGetDeliversTheNextStreamBits : Prop :=
  ∀ s : State,
    let n := s.port.nbits
    let k := (n - s.d.br.res + 7) / 8
    1 ≤ n → n ≤ 32 → s.d.br.res ≤ 31 →
    (0 < k → s.d.br.ptr < bsCap s → Memory.read (w := 8) s.bs s.d.br.ptr = none →
      exec .bsGet s = .fault (.bsUnwritten s.d.br.ptr)) ∧
    (bytesReady s s.d.br.ptr k → k = 0 ∨ s.d.br.ptr + k ≤ bsCap s → ∃ (v : Word) (br : BitReader),
      exec .bsGet s = .next ((s.setD { s.d with br := br }).setPort { s.port with result := v }) ∧
      br.ptr = s.d.br.ptr + k ∧ br.res + n = s.d.br.res + 8 * k ∧ br.rem = s.d.br.rem ∧
      v.toNat < 2 ^ n ∧
      (bitsOf v.toNat n ++ heldBits br).map some =
        (heldBits s.d.br).map some ++ streamBits s.bs (8 * s.d.br.ptr) (8 * k))

/-- R186, R190: guarded reads deliver the frame's bits in order, report exhaustion at its end, and never
leave the frame. -/
def Obligations.GuardedReadsStayInsideTheFrame : Prop :=
  ∀ (s : State) (base n k : Nat), frameReady s base n → readerAt s.bs s.d.br base n →
    ∃ (r : Option (List Bool)) (br : BitReader),
      getBits (readBs s) k s.d.br = .ok (r, br) ∧ readerAt s.bs br base n ∧
      ((k : Int) ≤ s.d.br.rem → br.rem = s.d.br.rem - k ∧
        ∃ bits, r = some bits ∧
          bits.map some = streamBits s.bs (8 * base + (n - s.d.br.rem.toNat)) k) ∧
      (s.d.br.rem < k → r = none ∧ br.rem = 0)

/-! ## Transform -/

/-- 42_transform.md R201, R202, R215, R221: each transform micro-operation writes the transform of its input over
the first `BLK` elements of its result register, and nothing else. A zero input gives a zero output: forward in
`FIXED`, and in both directions in `FLOAT` for tables of finite entries. The `FIXED` inverse of a zero input
depends on four tables only, and is zero where the dither and the bias are. That the operations of `F` are exact
on zeros is the model's reading of R201 and R221 (log entry 5, DEDUCED). -/
def Obligations.TransformsWriteOnlyTheirResult : Prop :=
  ∀ s : State,
    (∃ c : SigReg 640, exec .dct4Fwd s = .next (s.setW { s.w with coef := c }) ∧
      (s.build.backend = .fixed → c.fl = s.w.coef.fl ∧
        ∀ k, vget c.fx k = if k < s.e.mode.blk then
          vget (dctFwdFixed s.build.rom s.e.mode (vtake s.w.x.fx s.e.mode.blk)) k
          else vget s.w.coef.fx k) ∧
      (s.build.backend = .float → c.fx = s.w.coef.fx ∧
        ∀ k, vget c.fl k = if k < s.e.mode.blk then
          vget (dctFwdFloat s.build.rom s.e.mode (vtake s.w.x.fl s.e.mode.blk)) k
          else vget s.w.coef.fl k) ∧
      (s.build.backend = .fixed → (∀ i < s.e.mode.blk, vget s.w.x.fx i = 0#16) →
        ∀ k < s.e.mode.blk, vget c.fx k = 0#16) ∧
      (s.build.backend = .float → floatFinite s.build.rom →
        (∀ i < s.e.mode.blk, Config.fKind (vget s.w.x.fl i) = .number 0) →
        ∀ k < s.e.mode.blk, Config.fKind (vget c.fl k) = .number 0)) ∧
    (∃ y : SigReg 640, exec .dct4Inv s = .next (s.setW { s.w with news := y }) ∧
      (s.build.backend = .fixed → y.fl = s.w.news.fl ∧
        ∀ k, vget y.fx k = if k < s.d.mode.blk then
          vget (dctInvFixed s.build.rom s.d.mode (vtake s.w.coef.fx s.d.mode.blk)) k
          else vget s.w.news.fx k) ∧
      (s.build.backend = .float → y.fx = s.w.news.fx ∧
        ∀ k, vget y.fl k = if k < s.d.mode.blk then
          vget (dctInvFloat s.build.rom s.d.mode (vtake s.w.coef.fl s.d.mode.blk)) k
          else vget s.w.news.fl k) ∧
      (s.build.backend = .fixed → (∀ i < s.d.mode.blk, vget s.w.coef.fx i = 0#16) →
        (∀ rom : Rom, rom.fixedOnly.dither s.d.mode = s.build.rom.fixedOnly.dither s.d.mode →
          rom.i16.coreInv s.d.mode = s.build.rom.i16.coreInv s.d.mode →
          rom.i16.cosmsin = s.build.rom.i16.cosmsin →
          (s.d.mode = .nb → rom.fixedOnly.synBias = s.build.rom.fixedOnly.synBias) →
          ∀ k < s.d.mode.blk,
            vget y.fx k = vget (dctInvFixed rom s.d.mode (Vector.replicate s.d.mode.blk 0#16)) k) ∧
        ((∀ i < s.d.mode.blk, s.build.rom.fixedOnly.dither s.d.mode i = 0#16) →
          (s.d.mode = .nb → ∀ i < 320, vget s.build.rom.fixedOnly.synBias i = 0#16) →
          ∀ k < s.d.mode.blk, vget y.fx k = 0#16)) ∧
      (s.build.backend = .float → floatFinite s.build.rom →
        (∀ i < s.d.mode.blk, Config.fKind (vget s.w.coef.fl i) = .number 0) →
        ∀ k < s.d.mode.blk, Config.fKind (vget y.fl k) = .number 0))

/-- R200, R203 to R211, R213, R214, R217: the addressing of one stage of part (a) and of part (c) over any
element type, as the rules' loops write it; and the order, the arithmetic and the rounding of the stages of the
four transforms, the core between them, the post-correction (`NB` only) and the rescale. -/
def Obligations.TransformStagesAddressAsTheRulesWrite : Prop :=
  (∀ (α : Type) [Inhabited α] (N s t j : Nat) (x : Vector α N) (sum dif : Nat → α → α → α),
    let span := N / 2 ^ s
    span * 2 ^ s = N → span % 2 = 0 → t < 2 ^ s → j < span / 2 →
    vget (butterfly sum dif s x) (t * span + j) =
      sum j (vget x (t * span + 2 * j)) (vget x (t * span + 2 * j + 1)) ∧
    vget (butterfly sum dif s x) (t * span + span - 1 - j) =
      dif j (vget x (t * span + 2 * j)) (vget x (t * span + 2 * j + 1))) ∧
  (∀ (α : Type) [Inhabited α] (N s t q : Nat) (x : Vector α N) (rot : Rotations α)
      (table : Nat → Nat → α × α),
    let span := N / 2 ^ s
    let half := span / 2
    let y := rotation rot table s x
    let le := vget x (t * span + 2 * q)
    let lo := vget x (t * span + 2 * q + 1)
    let he := vget x (t * span + half + 2 * q)
    let ho := vget x (t * span + half + 2 * q + 1)
    span * 2 ^ s = N → span % 4 = 0 → t < 2 ^ s → q < span / 4 →
    vget y (t * span + 2 * q) =
      rot.le (table span (2 * q)).1 (table span (2 * q)).2 le he ∧
    vget y (t * span + span - 1 - 2 * q) =
      rot.he (table span (2 * q)).1 (table span (2 * q)).2 le he ∧
    vget y (t * span + 2 * q + 1) =
      rot.lo (table span (2 * q + 1)).1 (table span (2 * q + 1)).2 lo ho ∧
    vget y (t * span + span - 2 - 2 * q) =
      rot.ho (table span (2 * q + 1)).1 (table span (2 * q + 1)).2 lo ho) ∧
  (∀ (rom : Rom) (m : Mode) (x : Vector I16 m.blk),
    let dither := rom.fixedOnly.dither m
    let half := fun z : Int => BitVec.ofInt 16 (z / 2)
    let core := fun (matrix : Nat → Nat → I16) (z : Nat → I16) (k : Nat) =>
      round16 ((List.range 10).foldl (fun acc i => lmac acc (z i) (matrix i k)) 0#32)
    let rot : Rotations I16 :=
      { le := fun c ms l h => round16 (lmac (lmult c l) (neg16 ms) h)
        he := fun c ms l h => round16 (lmac (lmult ms l) c h)
        lo := fun c ms l h => round16 (lmac (lmult c l) ms h)
        ho := fun c ms l h => round16 (lmac (lmult ms l) (neg16 c) h) }
    StagedTransform m.blk (m.log - 1) (fun _ _ a b => half (a.toInt + b.toInt))
      (fun _ _ a b => half (a.toInt - b.toInt)) (core (rom.i16.coreFwd m)) rot rom.i16.cosmsin (vget x)
      (vget (dctFwdFixed rom m x)) ∧
    ∃ y : Nat → I16,
      StagedTransform m.blk (m.log - 1)
        (fun s j a b =>
          if s = 0 then half ((add16 a (dither (2 * j))).toInt + b.toInt) else add16 a b)
        (fun s j a b =>
          if s = 0 then half ((add16 a (dither (2 * j + 1))).toInt - b.toInt) else sub16 a b)
        (core (rom.i16.coreInv m)) rot rom.i16.cosmsin (vget x) y ∧
      ∀ p < m.blk,
        (m = .nb → (vget (dctInvFixed rom m x) p).toInt =
          max (-32768) (min 32767 ((y p).toInt + (vget rom.fixedOnly.synBias p).toInt))) ∧
        (m = .wb → vget (dctInvFixed rom m x) p = y p)) ∧
  (∀ (rom : Rom) (m : Mode) (x : Vector FVal m.blk),
    let core := fun (matrix : Nat → Nat → FVal) (z : Nat → FVal) (k : Nat) =>
      (List.range 10).foldl (fun acc i => Config.fAdd acc (Config.fMul (z i) (matrix i k)))
        (Config.fOfInt 0)
    let rot : Rotations FVal :=
      { le := fun c ms l h => Config.fSub (Config.fMul c l) (Config.fMul ms h)
        he := fun c ms l h => Config.fAdd (Config.fMul ms l) (Config.fMul c h)
        lo := fun c ms l h => Config.fAdd (Config.fMul c l) (Config.fMul ms h)
        ho := fun c ms l h => Config.fSub (Config.fMul ms l) (Config.fMul c h) }
    let staged := fun (matrix : Nat → Nat → FVal) (y : Nat → FVal) =>
      StagedTransform m.blk (m.log - 1) (fun _ _ => Config.fAdd) (fun _ _ => Config.fSub) (core matrix)
        rot rom.flt.cosmsin (vget x) y
    (∃ y, staged (rom.flt.coreFwd m) y ∧
      ∀ p < m.blk, vget (dctFwdFloat rom m x) p = Config.fMul (y p) (rom.floatOnly.kFwd m)) ∧
    ∃ y, staged (rom.flt.coreInv m) y ∧
      ∀ p < m.blk, vget (dctInvFloat rom m x) p = Config.fMul (y p) (rom.floatOnly.kInv m))

/-! ## Window -/

/-- 43_window_overlap.md R243, R244, R246: what `WIN_ANA` computes in each backend, and that the history
takes the new samples; nothing else changes. -/
def Obligations.WinAnaFoldsTwoBlocksAndRetainsTheNew : Prop :=
  ∀ s : State,
    let n := s.e.mode.blk
    let h := n / 2
    let new := vget s.w.pcm
    ∃ u hist : SigReg 640,
      exec .winAna s = .next ((s.setW { s.w with u := u }).setE { s.e with hist := hist }) ∧
      (s.build.backend = .fixed →
        let w := s.build.rom.i16.winAna s.e.mode
        let old := vget s.e.hist.fx
        u.fl = s.w.u.fl ∧ hist.fl = s.e.hist.fl ∧
        (∀ k < h, vget u.fx k =
          round16 (lmac (lmult (w (h - 1 - k)) (old (h - 1 - k))) (w (h + k)) (old (h + k)))) ∧
        (∀ k < h, vget u.fx (h + k) =
          round16 (lmac (lmult (w (n - 1 - k)) (new k)) (neg16 (w k)) (new (n - 1 - k)))) ∧
        (∀ i, n ≤ i → vget u.fx i = vget s.w.u.fx i) ∧
        ∀ i, vget hist.fx i = if i < n then new i else old i) ∧
      (s.build.backend = .float →
        let w := s.build.rom.flt.winAna s.e.mode
        let old := vget s.e.hist.fl
        let newF := fun i => Config.fOfInt (new i).toInt
        u.fx = s.w.u.fx ∧ hist.fx = s.e.hist.fx ∧
        (∀ k < h, vget u.fl k = Config.fAdd (Config.fMul (w (h - 1 - k)) (old (h - 1 - k)))
          (Config.fMul (w (h + k)) (old (h + k)))) ∧
        (∀ k < h, vget u.fl (h + k) = Config.fSub (Config.fMul (w (n - 1 - k)) (newF k))
          (Config.fMul (w k) (newF (n - 1 - k)))) ∧
        (∀ i, n ≤ i → vget u.fl i = vget s.w.u.fl i) ∧
        ∀ i, vget hist.fl i = if i < n then newF i else old i)

/-- R247 to R249, R251: `HEADROOM` writes the shift its rule gives and the shifted block; in `FLOAT` the shift
is 0 and the block is copied. The rule is written out over the basic operations: the peak is the largest
magnitude, the table's row is 0, `HR_ZERO` or a normalization count less `HR_BIAS`, and one is taken off where
the peak is below the average. That a shift outside `int16`, which only constants far from the suggested ones
give, keeps its low 16 bits is the model's choice (log entry 21, DESIGN CHOICE). -/
def Obligations.HeadroomWritesTheShiftAndTheShiftedBlock : Prop :=
  ∀ s : State,
    let n := s.e.mode.blk
    ∃ (m : I16) (x : SigReg 640), exec .headroom s = .next (s.setW { s.w with magsh := m, x := x }) ∧
      (s.build.backend = .fixed →
        m = headroomShift s.build.rom s.build.normZero (peakOf (vget s.w.u.fx) n)
          (absSum (vget s.w.u.fx) n) ∧
        (let k := s.build.rom.fixedOnly
          let peak := peakOf (vget s.w.u.fx) n
          let asum : Int := ((List.range n).map fun i => (abs16 (vget s.w.u.fx i)).toInt).sum
          let t : Int := if peak < k.hrSmall.toInt then peak + 1 else peak
          let t5 := xl (shr32 (lmult (BitVec.ofInt 16 t) k.hrMul) k.hrShr.toInt)
          let row : Int :=
            if k.hrFull.toInt ≤ peak then 0
            else if t5 = 0#16 then k.hrZero.toInt
            else (norm16 s.build.normZero t5).toInt - k.hrBias.toInt
          m = BitVec.ofInt 16
            (if peak < (shr32 (BitVec.ofInt 32 asum) k.hrAvgShr.toInt).toInt then row - 1 else row)) ∧
        x.fl = s.w.x.fl ∧
        (∀ i, vget x.fx i = if i < n then
            (if 0 < m.toInt then shl16 (vget s.w.u.fx i) m.toInt
             else if m.toInt < 0 then shr16 (vget s.w.u.fx i) (-m.toInt)
             else vget s.w.u.fx i)
          else vget s.w.x.fx i) ∧
        (∀ i < n, (abs16 (vget s.w.u.fx i)).toInt ≤ peakOf (vget s.w.u.fx) n) ∧
        ∃ i < n, (abs16 (vget s.w.u.fx i)).toInt = peakOf (vget s.w.u.fx) n) ∧
      (s.build.backend = .float → m = 0#16 ∧ x.fx = s.w.x.fx ∧
        ∀ i, vget x.fl i = if i < n then vget s.w.u.fl i else vget s.w.x.fl i)

/-- R250: with the suggested constants the shift is between -1 and 9, and a block whose peak it was chosen
for does not saturate when shifted. -/
def Obligations.SuggestedHeadroomNeverSaturates : Prop :=
  ∀ (rom : Rom) (normZero : I16) (peak : Int) (asum : I32),
    rom.fixedOnly.hrFull = 14000#16 → rom.fixedOnly.hrSmall = 438#16 →
    rom.fixedOnly.hrMul = 9587#16 → rom.fixedOnly.hrShr = 20#16 → rom.fixedOnly.hrZero = 9#16 →
    rom.fixedOnly.hrBias = 6#16 → rom.fixedOnly.hrAvgShr = 7#16 → 0 ≤ peak → peak ≤ 32767 →
    -1 ≤ (headroomShift rom normZero peak asum).toInt ∧
    (headroomShift rom normZero peak asum).toInt ≤ 9 ∧
    peak * 2 ^ (headroomShift rom normZero peak asum).toInt.toNat ≤ 32767

/-- R253, R255, R256, R257: what `WIN_SYN` computes in each backend, and that the second half of the
unshifted block is retained; nothing else changes. -/
def Obligations.WinSynOverlapsAndRetainsTheSecondHalf : Prop :=
  ∀ s : State,
    let n := s.d.mode.blk
    let h := n / 2
    ∃ (out : SigReg 640) (kept : SigReg 320),
      exec .winSyn s = .next ((s.setW { s.w with out := out }).setD { s.d with oldsamp := kept }) ∧
      (s.build.backend = .fixed →
        let w := s.build.rom.i16.winSyn s.d.mode
        let p := s.build.rom.fixedOnly.synPostshift.toInt
        let old := vget s.d.oldsamp.fx
        let m := s.w.magsh.toInt
        let v := fun i => if 0 < m then shr16 (vget s.w.news.fx i) m
          else if m < 0 then shl16 (vget s.w.news.fx i) (-m) else vget s.w.news.fx i
        out.fl = s.w.out.fl ∧ kept.fl = s.d.oldsamp.fl ∧
        (∀ k < h, vget out.fx k =
          round16 (shl32 (lmac (lmult (w k) (v (h - 1 - k))) (w (n - 1 - k)) (old k)) p)) ∧
        (∀ k < h, vget out.fx (h + k) =
          round16 (shl32 (lmac (lmult (w (h + k)) (v k)) (neg16 (w (h - 1 - k)))
            (old (h - 1 - k))) p)) ∧
        (∀ i, n ≤ i → vget out.fx i = vget s.w.out.fx i) ∧
        (∀ k < h, vget kept.fx k = v (h + k)) ∧ ∀ k, h ≤ k → vget kept.fx k = old k) ∧
      (s.build.backend = .float →
        let w := s.build.rom.flt.winSyn s.d.mode
        let old := vget s.d.oldsamp.fl
        let v := vget s.w.news.fl
        out.fx = s.w.out.fx ∧ kept.fx = s.d.oldsamp.fx ∧
        (∀ k < h, vget out.fl k = Config.fAdd (Config.fMul (w k) (v (h - 1 - k)))
          (Config.fMul (w (n - 1 - k)) (old k))) ∧
        (∀ k < h, vget out.fl (h + k) = Config.fSub (Config.fMul (w (h + k)) (v k))
          (Config.fMul (w (h - 1 - k)) (old (h - 1 - k)))) ∧
        (∀ i, n ≤ i → vget out.fl i = vget s.w.out.fl i) ∧
        (∀ k < h, vget kept.fl k = v (h + k)) ∧ ∀ k, h ≤ k → vget kept.fl k = old k)

/-! ## Region power -/

/-- 44_region_power.md R271 to R274: `PWR_EST` writes the raw indices of the mode's regions and nothing else. In
`FIXED` an index is the normalisation exponent with the headroom shift taken off; the exponent is -16 for a zero
region, else the position of the (saturated) energy's top bit less 15, and one more where the energy, scaled to
bit 15, is at least 2 * 28963. In `FLOAT` it is the level of the mean square among the boundaries. The
exponent's upper bound 16 is the model's reading (log entry 23, DEDUCED; R273 says 15). -/
def Obligations.PwrEstWritesBoundedRawIndices : Prop :=
  ∀ s : State, ∃ v, exec .pwrEst s = .next (s.setW { s.w with abs := v }) ∧
    (∀ r, s.e.mode.nreg ≤ r → vget v r = vget s.w.abs r) ∧
    (s.build.backend = .fixed → -100 ≤ s.w.magsh.toInt → s.w.magsh.toInt ≤ 100 →
      ∀ r < s.e.mode.nreg, ∃ ps : Int, -16 ≤ ps ∧ ps ≤ 16 ∧
        ps = powerScale (energyFixed (vget s.w.coef.fx) r) ∧
        (vget v r).toInt = ps - 2 * s.w.magsh.toInt + 11 ∧
        ((∀ j < 20, vget s.w.coef.fx (20 * r + j) = 0#16) → ps = -16) ∧
        ∀ p : Nat,
          let energy : Int := min 2147483647
            ((List.range 20).map fun j => (vget s.w.coef.fx (20 * r + j)).toInt ^ 2).sum
          2 ^ p ≤ energy → energy < 2 ^ (p + 1) →
          ps = (p : Int) - 15 + (if 2 * 28963 * 2 ^ p ≤ energy * 2 ^ 15 then 1 else 0)) ∧
    (s.build.backend = .float → ∀ r < s.e.mode.nreg,
      -24 ≤ (vget v r).toInt ∧ (vget v r).toInt ≤ 39 ∧
      ∃ j : Nat,
        let square := fun i =>
          Config.fMul (vget s.w.coef.fl (20 * r + i)) (vget s.w.coef.fl (20 * r + i))
        let ms := Config.fDiv
          ((List.range 20).foldl (fun acc i => Config.fAdd acc (square i)) (Config.fOfInt 0))
          (Config.fOfInt 20)
        let bound := vget s.build.rom.floatOnly.pwrBound
        j ≤ 63 ∧ (vget v r).toInt = (j : Int) - 24 ∧
        (0 < j → Config.fLt ms (bound (j - 1)) = false) ∧
        (j < 63 → Config.fLt ms (bound j) = true))

/-- R276 to R279: `PWR_ADJ` raises the raw indices from high to low frequency, clamps them, and raises an index
that falls more than 12; whatever the raw indices were, the envelope is then codable: every index and every
step is in range and the symbols rebuild the indices. -/
def Obligations.PwrAdjMakesTheEnvelopeCodable : Prop :=
  ∀ s : State, ∃ (abs : Vector I16 28) (sym : Vector (Fin 32) 28),
    exec .pwrAdj s = .next (s.setW { s.w with abs := abs, sym := sym }) ∧
    (∀ r, s.e.mode.nreg ≤ r → vget abs r = vget s.w.abs r ∧ vget sym r = vget s.w.sym r) ∧
    -8 ≤ (vget abs 0).toInt ∧ (vget abs 0).toInt ≤ 22 ∧
    ((vget sym 0).val : Int) = (vget abs 0).toInt + 9 ∧ 1 ≤ (vget sym 0).val ∧
    (∀ r < s.e.mode.nreg, -17 ≤ (vget abs r).toInt ∧ (vget abs r).toInt ≤ 22) ∧
    (∀ r, r + 1 < s.e.mode.nreg →
      (vget sym (r + 1)).val ≤ 23 ∧
      (vget abs (r + 1)).toInt = (vget abs r).toInt + (vget sym (r + 1)).val - 12) ∧
    ∃ raised : Nat → Int,
      raised (s.e.mode.nreg - 1) = (vget s.w.abs (s.e.mode.nreg - 1)).toInt ∧
      (∀ r, r + 1 < s.e.mode.nreg →
        raised r = max (vget s.w.abs r).toInt (raised (r + 1) - 11)) ∧
      (vget abs 0).toInt = max (-8) (min 22 (raised 0)) ∧
      ∀ r, r + 1 < s.e.mode.nreg → (vget abs (r + 1)).toInt =
        max (max (-17) (min 22 (raised (r + 1)))) ((vget abs r).toInt - 12)

/-- R276: the valley raise never lowers an index, leaves no rise above `DRP_MAX`, and changes nothing where
there is none. -/
def Obligations.ValleyRaiseOnlyRaises : Prop :=
  ∀ l : List Int, (valleyRaise l).length = l.length ∧
    (∀ r < l.length, lget l r ≤ lget (valleyRaise l) r) ∧
    (∀ r, r + 1 < l.length → lget (valleyRaise l) (r + 1) - lget (valleyRaise l) r ≤ 11) ∧
    ((∀ r, r + 1 < l.length → lget l (r + 1) - lget l r ≤ 11) → valleyRaise l = l)

/-- R280: `PWR_ENC` writes the envelope string, region 0 in five bits and one code for each later region,
and its length. -/
def Obligations.PwrEncConcatenatesTheCodes : Prop :=
  ∀ s : State, ∃ env : List Bool,
    exec .pwrEnc s = .next (s.setW { s.w with env := env, envbits := env.length }) ∧
    env.length = 5 + ((List.range (s.e.mode.nreg - 1)).map fun r =>
      vget (vget s.build.rom.drpLen (r + 1)) (vget s.w.sym (r + 1)).val).sum ∧
    env.take 5 = bitsOf (vget s.w.sym 0).val 5 ∧
    env.drop 5 = ((List.range (s.e.mode.nreg - 1)).map fun r =>
      bitsOf (vget (vget s.build.rom.drpCode (r + 1)) (vget s.w.sym (r + 1)).val)
        (vget (vget s.build.rom.drpLen (r + 1)) (vget s.w.sym (r + 1)).val)).flatten

/-- R283, R285, R286, 30_encoding.md R116: `PWR_DEC` on a readable frame completes and reads the header from the
frame's left bits: five bits are `P0` and give index 0, the walk of each later region's tree gives that
region's step, and the next `CCBITS` bits are the control value. Where the header is whole, `REM` is the number of
bits after it; exactly where the bits end inside one of its fields, `OVERRUN` is set, what was not read stays
unwritten and `REM` is 0. That an index outside `int16`, which only trees that break 10_state.md R52 give, keeps its
low 16 bits is the model's choice (log entry 21, DESIGN CHOICE). -/
def Obligations.PwrDecReadsTheHeaderOrOverruns : Prop :=
  ∀ (s : State) (base n : Nat), frameReady s base n → readerAt s.bs s.d.br base n →
    let rom := s.build.rom
    let nreg := s.d.mode.nreg
    let ccbits := s.d.mode.ccbits
    let number := fun l : List Bool => l.foldl (fun v b => 2 * v + if b then 1 else 0) 0
    let bits := leftBits s.bs s.d.br base n
    let steps := wireSteps rom (nreg - 1) 1 (bits.drop 5)
    ∃ (abs : Vector I16 28) (cc : Fin 32) (ferr : BitVec 4) (br : BitReader),
      exec .pwrDec s = .next
        ((s.setW { s.w with abs := abs, catctl := cc, ferr := ferr }).setD { s.d with br := br }) ∧
      readerAt s.bs br base n ∧ br.rem ≤ s.d.br.rem ∧
      (bits.length < 5 → abs = s.w.abs) ∧
      (5 ≤ bits.length →
        (vget abs 0).toInt = (number (bits.take 5) : Int) - 9 ∧
        (∀ r < steps.1.length,
          vget abs (r + 1) = BitVec.ofInt 16 ((vget abs r).toInt + lget steps.1 r - 12)) ∧
        ∀ r, steps.1.length < r → vget abs r = vget s.w.abs r) ∧
      (∀ rest, 5 ≤ bits.length → steps.2 = some rest → ccbits ≤ rest.length →
        ferr = s.w.ferr ∧ cc.val = number (rest.take ccbits) ∧ cc.val < s.d.mode.nposs ∧
        br.rem = (rest.length : Int) - ccbits ∧
        -9 ≤ (vget abs 0).toInt ∧ (vget abs 0).toInt ≤ 22 ∧
        ((∀ r, 1 ≤ r → r ≤ 27 → treeWf (drpTreeAt rom r) 23 24) →
          ∀ r, r + 1 < nreg →
            -12 ≤ (vget abs (r + 1)).toInt - (vget abs r).toInt ∧
            (vget abs (r + 1)).toInt - (vget abs r).toInt ≤ 11)) ∧
      ((bits.length < 5 ∨ steps.2 = none ∨ ∃ rest, steps.2 = some rest ∧ rest.length < ccbits) →
        ferr = s.w.ferr ||| 2#4 ∧ cc = s.w.catctl ∧ br.rem = 0)

/-- R287, R288: the decoder's shift is the largest from 9 down at which the halved sum of standard deviations
is below 8 and the loop's copy of the largest row is at most 28, or -1; the standard deviations are read
two rows up per shift step. In `FLOAT` the shift is 0. -/
def Obligations.SdShiftPicksTheLargestFittingShift : Prop :=
  ∀ s : State,
    let n := s.d.mode.nreg
    let row := fun (r : Nat) (m : Int) =>
      (max 0 (min 63 ((vget s.w.abs r).toInt + 24 + 2 * m))).toNat
    ∃ (m : I16) (sd : SigReg 28),
      exec .sdShift s = .next (s.setW { s.w with magsh := m, sd := sd }) ∧
      (s.build.backend = .fixed →
        let table := vget s.build.rom.i16.sd
        let temp : Int := ((List.range n).foldl (fun t r => add16 t (table (row r 0))) 0#16).toInt
        let maxi : Nat := (List.range n).foldl (fun a r => max a (row r 0)) 0
        let fits := fun (k : Int) =>
          temp / 2 ^ (9 - k).toNat < 8 ∧ (maxi : Int) - 2 * (9 - k) ≤ 28
        m.toInt ≤ 9 ∧ -1 ≤ m.toInt ∧ (0 ≤ m.toInt → fits m.toInt) ∧
        (∀ k : Int, m.toInt < k → k ≤ 9 → ¬ fits k) ∧
        sd.fl = s.w.sd.fl ∧
        (∀ r < n, vget sd.fx r = table (row r m.toInt)) ∧
        ∀ r, n ≤ r → vget sd.fx r = vget s.w.sd.fx r) ∧
      (s.build.backend = .float → m = 0#16 ∧ sd.fx = s.w.sd.fx ∧
        (∀ r < n, vget sd.fl r = vget s.build.rom.flt.sd (row r 0)) ∧
        ∀ r, n ≤ r → vget sd.fl r = vget s.w.sd.fl r)

/-! ## Categorization -/

/-- 45_categorization.md R302 to R304: the budget, with the rule's examples; and, with expected bits that
do not increase in the category, the search finds the largest offset of -32..31 whose expected bits are at
least the budget less 32, or -32. -/
def Obligations.BudgetAndOffsetSearchFollowTheirRules : Prop :=
  (∀ (m : Mode) (a : Int), a ≤ m.blk → budgetOf m a = a) ∧
  (∀ (m : Mode) (a : Int), (m.blk : Int) < a →
    (m.blk : Int) ≤ budgetOf m a ∧ budgetOf m a < a ∧
    8 * (budgetOf m a - m.blk) ≤ 5 * (a - m.blk) ∧
    5 * (a - m.blk) < 8 * (budgetOf m a - m.blk) + 8) ∧
  (budgetOf .nb 441 = 395 ∧ budgetOf .wb 827 = 756 ∧ budgetOf .nb 320 = 320) ∧
  ∀ (rom : Rom) (abs : Nat → Int) (n : Nat) (b : Int), expbitsWf rom →
    let e := expectedBits (vget rom.expbits) abs n
    let t := offsetSearch e b
    t ≤ 31 ∧ -32 ≤ t ∧ (-32 < t → e t ≥ b - 32) ∧ ∀ u, t < u → u ≤ 31 → e u < b - 32

/-- R301 to R309, R311: `CATEGORIZE` completes for every input and depends on the indices, the available bits,
the mode and `EXPBITS` only. The offset is the search's at the budget; the categories and the balance entries
are those of the rebalance: at each step the mean of the two totals is held against the budget, the cheapest
region is promoted or the dearest demoted, and the promotions stand in front, last first, then the
demotions. The mode is that of the running command's side (log entry 10, DEDUCED). -/
def Obligations.CategorizeIsAFunctionOfItsInputs : Prop :=
  (∀ s : State, ∃ (offset : Int) (cat0 : Vector (Fin 8) 28) (bal : Vector (Fin 28) 31),
    exec .categorize s = .next (s.setW { s.w with offset := offset, cat0 := cat0, bal := bal }) ∧
    -32 ≤ offset ∧ offset ≤ 31 ∧
    (∀ r < (runMode s).nreg, (vget cat0 r).val ≤
      (max 0 (min 7 ((offset - (vget s.w.abs r).toInt) / 2))).toNat) ∧
    (∀ r, (runMode s).nreg ≤ r → vget cat0 r = vget s.w.cat0 r) ∧
    (∀ i < (runMode s).nposs - 1, (vget bal i).val < (runMode s).nreg) ∧
    (∀ i, (runMode s).nposs - 1 ≤ i → vget bal i = vget s.w.bal i) ∧
    ∃ (mx mn : Nat → Nat → Nat) (entry : Nat → Nat) (up : Nat → Bool),
      let n := (runMode s).nreg
      let steps := (runMode s).nposs - 1
      let abs := fun r => (vget s.w.abs r).toInt
      let expbits := vget s.build.rom.expbits
      let budget := budgetOf (runMode s) s.w.avail
      let total := fun cat : Nat → Nat => ((List.range n).map fun r => (expbits (cat r) : Int)).sum
      let slack := fun (cat : Nat → Nat) (r : Nat) => offset - abs r - 2 * (cat r : Int)
      offset = offsetSearch (expectedBits expbits abs n) budget ∧
      (∀ r < n, mx 0 r = (max 0 (min 7 ((offset - abs r) / 2))).toNat ∧ mn 0 r = mx 0 r) ∧
      (∀ k < steps,
        entry k < n ∧ up k = decide (total (mx k) + total (mn k) ≤ 2 * budget) ∧
        (up k = true →
          ((∃ r < n, 0 < mx k r ∧ slack (mx k) r < 99) →
            0 < mx k (entry k) ∧ ∀ r < n, 0 < mx k r →
              slack (mx k) (entry k) ≤ slack (mx k) r ∧
              (r < entry k → slack (mx k) (entry k) < slack (mx k) r)) ∧
          ((∀ r < n, 0 < mx k r → 99 ≤ slack (mx k) r) → entry k = 0) ∧
          ∀ r < n, mn (k + 1) r = mn k r ∧
            mx (k + 1) r = if r = entry k then mx k r - 1 else mx k r) ∧
        (up k = false →
          ((∃ r < n, mn k r < 7 ∧ -99 < slack (mn k) r) →
            mn k (entry k) < 7 ∧ ∀ r < n, mn k r < 7 →
              slack (mn k) r ≤ slack (mn k) (entry k) ∧
              (entry k < r → slack (mn k) r < slack (mn k) (entry k))) ∧
          ((∀ r < n, mn k r < 7 → slack (mn k) r ≤ -99) → entry k = 0) ∧
          ∀ r < n, mx (k + 1) r = mx k r ∧
            mn (k + 1) r = if r = entry k then min 7 (mn k r + 1) else mn k r)) ∧
      (∀ r < n, (vget cat0 r).val = mx steps r) ∧
      (List.range steps).map (fun i => (vget bal i).val) =
        (((List.range steps).filter fun k => up k).map entry).reverse ++
          ((List.range steps).filter fun k => !up k).map entry) ∧
  (∀ s t s' t' : State, exec .categorize s = .next s' → exec .categorize t = .next t' →
    runMode s = runMode t → s.w.avail = t.w.avail → s.build.rom.expbits = t.build.rom.expbits →
    (∀ r < (runMode s).nreg, vget s.w.abs r = vget t.w.abs r) →
    s'.w.offset = t'.w.offset ∧
    (∀ r < (runMode s).nreg, vget s'.w.cat0 r = vget t'.w.cat0 r) ∧
    ∀ i < (runMode s).nposs - 1, vget s'.w.bal i = vget t'.w.bal i)

/-- R310: `CAT_REPLAY` is the rule's loop over the first `W.CATCTL` balance entries. -/
def Obligations.CatReplayRunsTheBalanceLoop : Prop :=
  ∀ s : State, ∃ cat : Vector (Fin 8) 28, exec .catReplay s = .next (s.setW { s.w with cat := cat }) ∧
    (∀ r < s.d.mode.nreg, (vget cat r).val =
      (List.range s.w.catctl.val).foldl
        (fun c i => if (vget s.w.bal i).val = r then min 7 (c + 1) else c) (vget s.w.cat0 r).val) ∧
    ∀ r, s.d.mode.nreg ≤ r → vget cat r = vget s.w.cat r

/-- R312, R313, 46_vector_quantizer.md R323: after `RATE_ADJ` the categories are those of the control value,
every region is coded at its category, and the coded regions fit the frame unless the control value is
the last. The control value is the one the two loops end at: from the middle down while the coded regions are
shorter than the budget, to the turning value; from there up while they are longer. -/
def Obligations.RateAdjFitsTheFrameOrUsesTheLastValue : Prop :=
  ∀ s : State,
    let n := s.e.mode.nreg
    (∀ i < s.e.mode.nposs - 1, (vget s.w.bal i).val < n) →
    ∃ (idxq : Vector (Fin 64) 28) (cc : Fin 32) (cat : Vector (Fin 8) 28)
      (rbits : Vector (List Bool) 28),
      exec .rateAdj s = .next (s.setW { s.w with
        idxq := idxq, catctl := cc, cat := cat, rbits := rbits }) ∧
      cc.val < s.e.mode.nposs ∧
      (∀ r < n, ((vget idxq r).val : Int) =
        max 0 (min 63 ((vget s.w.abs r).toInt + 24 + 2 * s.w.magsh.toInt))) ∧
      (∀ r < n, (vget cat r).val = min 7 ((vget s.w.cat0 r).val +
        (List.range cc.val).countP fun i => (vget s.w.bal i).val == r)) ∧
      (∀ r < n, vget rbits r =
        regionBits s.build s.w.coef (fun q => (vget idxq q).val) r (vget cat r).val) ∧
      ((((List.range n).map fun r => (vget rbits r).length).sum : Int) ≤ s.w.avail ∨
        cc.val = s.e.mode.nposs - 1) ∧
      ∃ turn : Nat,
        let cats := fun k r => min 7 ((vget s.w.cat0 r).val +
          (List.range k).countP fun i => (vget s.w.bal i).val == r)
        let total : Nat → Int := fun k => ((List.range n).map fun r =>
          ((regionBits s.build s.w.coef (fun q => (vget idxq q).val) r (cats k r)).length : Int)).sum
        turn ≤ s.e.mode.nposs / 2 - 1 ∧ turn ≤ cc.val ∧
        (∀ k, turn < k → k ≤ s.e.mode.nposs / 2 - 1 → total k < s.w.avail) ∧
        (turn = 0 ∨ s.w.avail ≤ total turn) ∧
        (∀ k, turn ≤ k → k < cc.val → s.w.avail < total k) ∧
        (total cc.val ≤ s.w.avail ∨ cc.val = s.e.mode.nposs - 1)

/-! ## Vector quantizer -/

/-- 46_vector_quantizer.md R322 to R327, 30_encoding.md R112, R115, R118: `VQ_ENC` by itself writes one region's
string: for each vector the code of the composite index of its bins, each clamped to `KMAX`, then one sign bit
(1 for positive) for each element whose bin is not 0; at most 640 bits for a conforming ROM, empty at category
7. Where it takes its operands from, and that in `FLOAT` a value is held against `KMAX + 1` by `<_F` with
`toF(KMAX + 1)`, are the model's choices (log entries 20 and 30, DESIGN CHOICE). -/
def Obligations.VqEncWritesOneBoundedString : Prop :=
  ∀ s : State, ∃ bits : List Bool,
    exec .vqEnc s = .next (s.setW { s.w with rbits := vset s.w.rbits s.seq.region.val bits }) ∧
      (categoryWf s.build.rom → vectorCodeWf s.build.rom → bits.length ≤ 640) ∧
      ((vget s.w.cat s.seq.region.val).val = 7 → bits = []) ∧
      bits = regionBits s.build s.w.coef (fun q => (vget s.w.idxq q).val) s.seq.region.val
        (vget s.w.cat s.seq.region.val).val ∧
      ((vget s.w.cat s.seq.region.val).val < 7 →
        let r := s.seq.region.val
        let c := (vget s.w.cat r).val
        let row := (vget s.w.idxq r).val
        let rom := s.build.rom
        let dim := vget rom.vdim c
        let kmax := vget rom.kmax c
        let x := vget s.w.coef.fx
        let y := vget s.w.coef.fl
        let quantum : Int :=
          ((vget rom.i16.stepInv c).toInt * (vget rom.i16.sdInv row).toInt + 4096) / 2 ^ 13
        let scaled := fun p => Config.fAdd
          (Config.fMul (Config.fAbs (y p))
            (Config.fMul (vget rom.flt.stepInv c) (vget rom.flt.sdInv row)))
          (vget rom.floatOnly.dz c)
        let bin : Nat → Nat := fun p =>
          match s.build.backend with
          | .fixed => ((|(x p).toInt| * quantum + vget rom.fixedOnly.dz c) / 2 ^ 17).toNat
          | .float => if Config.fLt (scaled p) (Config.fOfInt (kmax + 1)) then
              (Config.fFloor (scaled p)).toNat else kmax
        let positive : Nat → Bool := fun p =>
          match s.build.backend with
          | .fixed => decide (0 < (x p).toInt)
          | .float => Config.fLt (Config.fOfInt 0) (y p)
        let index := fun p => ((List.range dim).map fun j =>
          min (bin (p + j)) kmax * (kmax + 1) ^ (dim - 1 - j)).sum
        let signs := fun p => ((List.range dim).filter fun j => bin (p + j) != 0).map fun j =>
          positive (p + j)
        bits = (List.range (vget rom.nvec c)).flatMap fun k =>
          let p := 20 * r + k * dim
          bitsOf (lget (vget rom.vqCode c) (index p)) (lget (vget rom.vqLen c) (index p)) ++ signs p)

/-- R335, 30_encoding.md R115: the reciprocal decomposition recovers the bins of every composite index. -/
def Obligations.DecompositionInvertsTheCompositeIndex : Prop :=
  ∀ (rom : Rom) (c : Nat) (ks : List Nat), categoryWf rom → c < 8 → ks.length = vget rom.vdim c →
    (∀ k ∈ ks, k ≤ vget rom.kmax c) →
    decompose rom (composite (vget rom.kmax c + 1) ks) c = (ks, ks.countP fun k => k != 0)

/-- R332, R334 to R336, R341, 30_encoding.md R112, R116, R118: `VQ_DEC` on a readable frame completes. Below
category 7 it reads vectors from the frame's left bits: each element becomes the level of its bin times the
standard deviation, negated where its sign bit is 0. Where the region's vectors are all there, `REM` is the
number of bits after them; exactly where the bits end inside one (its code, or its sign bits), it takes the
underrun exit after the vectors that are there. No other coefficient changes. Category 7 codes nothing. -/
def Obligations.VqDecDecodesItsRegionOrUnderruns : Prop :=
  ∀ (s : State) (base n : Nat), frameReady s base n → readerAt s.bs s.d.br base n →
    let r := s.seq.region.val
    let c := (vget s.w.cat r).val
    let rom := s.build.rom
    let dim := vget rom.vdim c
    let read := wireVectors rom c (vget rom.nvec c) (leftBits s.bs s.d.br base n)
    let place := fun m j => 20 * r + m * dim + j
    (c = 7 → exec .vqDec s = .next s) ∧
    (c < 7 →
      ∃ (coef : SigReg 640) (underrun : Bool) (cat : Vector (Fin 8) 28) (br : BitReader),
        exec .vqDec s = .next
          ((s.setW { s.w with coef := coef, underrun := underrun, cat := cat }).setD
            { s.d with br := br }) ∧
        (∀ rest, read.2 = some rest → underrun = s.w.underrun ∧ cat = s.w.cat ∧
          readerAt s.bs br base n ∧ br.rem = rest.length) ∧
        (read.2 = none → underrun = true ∧ br.rem = -1 ∧
          ∀ q, vget cat q = if r ≤ q ∧ q < s.d.mode.nreg then 7 else vget s.w.cat q) ∧
        (s.build.backend = .fixed → coef.fl = s.w.coef.fl ∧
          (∀ m < read.1.length, ∀ j < dim, place m j < 640 →
            vget coef.fx (place m j) = (lget read.1 m).element
              (fun k => BitVec.ofInt 16
                ((vget s.w.sd.fx r).toInt * (vget (vget rom.i16.centroid c) k).toInt / 2 ^ 12))
              neg16 j) ∧
          ∀ p, p < 20 * r ∨ 20 * r + read.1.length * dim ≤ p → vget coef.fx p = vget s.w.coef.fx p) ∧
        (s.build.backend = .float → coef.fx = s.w.coef.fx ∧
          (∀ m < read.1.length, ∀ j < dim, place m j < 640 →
            vget coef.fl (place m j) = (lget read.1 m).element
              (fun k => Config.fMul (vget s.w.sd.fl r) (vget (vget rom.flt.centroid c) k))
              Config.fNeg j) ∧
          ∀ p, p < 20 * r ∨ 20 * r + read.1.length * dim ≤ p → vget coef.fl p = vget s.w.coef.fl p) ∧
        (categoryWf rom → read.1.length * dim ≤ 20 ∧
          ∀ rest, read.2 = some rest → read.1.length * dim = 20))

/-- R343: `NOISE_FILL` does nothing below category 5; from 5 on it makes two draws, changes only zero
coefficients of its region (all twenty in category 7), and writes only the two amplitudes; the `i`-th filled
coefficient of a half takes its sign from bit `i` of that half's draw, 1 for positive (in category 7 element
`j` from bit `j`). -/
def Obligations.NoiseFillReplacesZerosWithTwoDraws : Prop :=
  ∀ s : State,
    let r := s.seq.region.val
    let c := (vget s.w.cat r).val
    let g := vget s.d.rand
    let w0 := g 0 + g 3
    let w1 := w0 + g 2
    (c < 5 → exec .noiseFill s = .next s) ∧
    (5 ≤ c → ∃ (coef : SigReg 640) (rand : Vector (BitVec 16) 4),
      exec .noiseFill s = .next ((s.setW { s.w with coef := coef }).setD { s.d with rand := rand }) ∧
      vget rand 0 = w1 ∧ vget rand 1 = w0 ∧ vget rand 2 = g 0 ∧ vget rand 3 = g 1 ∧
      (s.build.backend = .fixed →
        let amp := mult16 (vget s.w.sd.fx r) (vget s.build.rom.i16.noise (c - 5))
        coef.fl = s.w.coef.fl ∧
        (∀ p, p < 20 * r ∨ 20 * r + 20 ≤ p → vget coef.fx p = vget s.w.coef.fx p) ∧
        (∀ p, 20 * r ≤ p → p < 20 * r + 20 →
          if c = 7 ∨ vget s.w.coef.fx p = 0#16 then vget coef.fx p = amp ∨ vget coef.fx p = neg16 amp
          else vget coef.fx p = vget s.w.coef.fx p) ∧
        (c = 7 → ∀ j < 10,
          vget coef.fx (20 * r + j) = (if w0.getLsbD j then amp else neg16 amp) ∧
          vget coef.fx (20 * r + 10 + j) = (if w1.getLsbD j then amp else neg16 amp)) ∧
        ∀ half < 2, ∀ j < 10,
          let fills := fun i => c == 7 || vget s.w.coef.fx (20 * r + 10 * half + i) == 0#16
          let bit := (if half = 0 then w0 else w1).getLsbD ((List.range j).countP fills)
          fills j = true →
            vget coef.fx (20 * r + 10 * half + j) = if bit then amp else neg16 amp) ∧
      (s.build.backend = .float →
        let amp := Config.fMul (vget s.w.sd.fl r) (vget s.build.rom.flt.noise (c - 5))
        let isZero := fun x => Config.fEq x (Config.fOfInt 0)
        coef.fx = s.w.coef.fx ∧
        (∀ p, p < 20 * r ∨ 20 * r + 20 ≤ p → vget coef.fl p = vget s.w.coef.fl p) ∧
        (∀ p, 20 * r ≤ p → p < 20 * r + 20 →
          if c = 7 ∨ isZero (vget s.w.coef.fl p) = true then
            vget coef.fl p = amp ∨ vget coef.fl p = Config.fNeg amp
          else vget coef.fl p = vget s.w.coef.fl p) ∧
        (c = 7 → ∀ j < 10,
          vget coef.fl (20 * r + j) = (if w0.getLsbD j then amp else Config.fNeg amp) ∧
          vget coef.fl (20 * r + 10 + j) = (if w1.getLsbD j then amp else Config.fNeg amp)) ∧
        ∀ half < 2, ∀ j < 10,
          let fills := fun i => c == 7 || isZero (vget s.w.coef.fl (20 * r + 10 * half + i))
          let bit := (if half = 0 then w0 else w1).getLsbD ((List.range j).countP fills)
          fills j = true →
            vget coef.fl (20 * r + 10 * half + j) = if bit then amp else Config.fNeg amp))

/-- R345: one draw sums words 0 and 3 modulo 65536, shifts the register and returns the sum; the first four
draws from the seed (1, 1, 1, 1). -/
def Obligations.RandSumsTwoTapsAndShifts : Prop :=
  (∀ s : State, ∃ rand : Vector (BitVec 16) 4,
    exec .rand s = .next ((s.setD { s.d with rand := rand }).setPort
      { s.port with result := (vget rand 0).setWidth 32 }) ∧
    (vget rand 0).toNat = ((vget s.d.rand 0).toNat + (vget s.d.rand 3).toNat) % 65536 ∧
    vget rand 1 = vget s.d.rand 0 ∧ vget rand 2 = vget s.d.rand 1 ∧
    vget rand 3 = vget s.d.rand 2) ∧
  (let d1 := randDraw (Vector.replicate 4 1#16)
   let d2 := randDraw d1.2
   let d3 := randDraw d2.2
   let d4 := randDraw d3.2
   d1.1 = 2#16 ∧ d2.1 = 3#16 ∧ d3.1 = 4#16 ∧ d4.1 = 5#16)

/-! ## Frame -/

/-- 47_frame_commands.md R374, 30_encoding.md R107, R113, R114: `PACK` makes the payload exactly `BPF` bits
long, cut or padded with ones, and writes those bits at the cursor, whole bytes and no others. That it faults
where they pass the capacity is the model's choice (log entry 13, DESIGN CHOICE). -/
def Obligations.PackWritesTheFrameBitForBit : Prop :=
  ∀ s : State, s.e.bw.res = 0 → encBpf s % 8 = 0 →
    (0 < encBpf s → bsCap s < s.e.bw.ptr + encBpf s / 8 →
      exec .pack s = .fault (.bsCapacity (max s.e.bw.ptr (bsCap s)))) ∧
    (s.e.bw.ptr + encBpf s / 8 ≤ bsCap s → ∃ (bits : List Bool) (bw : BitWriter) (m : List Host.Cell),
      exec .pack s = .next
        (((s.setW { s.w with framebits := bits }).setE { s.e with bw := bw }).setBs m) ∧
      bits.length = encBpf s ∧
      (∀ p < encBpf s, lget bits p = (frameFields s.w s.e.mode).getD p true) ∧
      streamBits m (8 * s.e.bw.ptr) (encBpf s) = bits.map some ∧
      bw.res = 0 ∧ bw.ptr = s.e.bw.ptr + encBpf s / 8 ∧
      ∀ a, a < s.e.bw.ptr ∨ s.e.bw.ptr + encBpf s / 8 ≤ a →
        Memory.read (w := 8) m a = Memory.read (w := 8) s.bs a)

/-- 60_exceptions.md R406 to R409: `FRAME_CHECK` reads all leftover bits and adds exactly the flags whose
cause is there. That an underrun is told by `REM` below 0 (R406) or, where no bit is left, by `W.UNDERRUN`
(10_state.md R37) is the model's reading (log entry 25, DEDUCED). -/
def Obligations.FrameCheckSetsExactlyTheFlagsCaused : Prop :=
  ∀ (s : State) (base n : Nat), frameReady s base n →
    (readerAt s.bs s.d.br base n ∨ s.d.br.rem < 0) →
    ∃ (ferr : BitVec 4) (br : BitReader),
      exec .frameCheck s = .next ((s.setW { s.w with ferr := ferr }).setD { s.d with br := br }) ∧
      (br.rem = min 0 s.d.br.rem) ∧
      (ferr.getLsbD 0 = true ↔ s.w.ferr.getLsbD 0 = true ∨
        (0 < s.d.br.rem ∧
          some false ∈ streamBits s.bs (8 * base + (n - s.d.br.rem.toNat)) s.d.br.rem.toNat)) ∧
      (ferr.getLsbD 1 = true ↔ s.w.ferr.getLsbD 1 = true ∨
        ((s.d.br.rem < 0 ∨ (s.d.br.rem = 0 ∧ s.w.underrun = true)) ∧
          s.w.catctl.val < s.d.mode.nposs - 1)) ∧
      (ferr.getLsbD 2 = true ↔ s.w.ferr.getLsbD 2 = true ∨
        ∃ r < s.d.mode.nreg, (vget s.w.abs r).toInt < -17 ∨ 22 < (vget s.w.abs r).toInt) ∧
      ferr.getLsbD 3 = s.w.ferr.getLsbD 3

/-- R412 to R414: `CONCEAL`, the entry into concealment. A bad frame gets the retained coefficients and shift,
the retained memory is cleared and the generator restored; a good frame is retained; above the coded
regions the coefficients are 0. Nothing else changes. -/
def Obligations.ConcealSubstitutesAndForgetsOrRemembers : Prop :=
  ∀ s : State,
    let nv := 20 * s.d.mode.nreg
    let blk := s.d.mode.blk
    let bad : Prop := s.w.ferr ≠ 0#4
    ∃ (coef old : SigReg 640) (magsh oldshift : I16) (rand : Vector (BitVec 16) 4),
      exec .conceal s = .next ((s.setW { s.w with coef := coef, magsh := magsh }).setD
        { s.d with oldcoef := old, oldshift := oldshift, rand := rand }) ∧
      (bad → magsh = s.d.oldshift ∧ oldshift = 0#16 ∧ rand = s.w.randsnap) ∧
      (¬ bad → magsh = s.w.magsh ∧ oldshift = s.w.magsh ∧ rand = s.d.rand) ∧
      (s.build.backend = .fixed → coef.fl = s.w.coef.fl ∧ old.fl = s.d.oldcoef.fl ∧
        (∀ i < nv, (bad → vget coef.fx i = vget s.d.oldcoef.fx i ∧ vget old.fx i = 0#16) ∧
          (¬ bad → vget coef.fx i = vget s.w.coef.fx i ∧ vget old.fx i = vget s.w.coef.fx i)) ∧
        (∀ i, nv ≤ i → i < blk → vget coef.fx i = 0#16) ∧
        (∀ i, blk ≤ i → vget coef.fx i = vget s.w.coef.fx i) ∧
        ∀ i, nv ≤ i → vget old.fx i = vget s.d.oldcoef.fx i) ∧
      (s.build.backend = .float → coef.fx = s.w.coef.fx ∧ old.fx = s.d.oldcoef.fx ∧
        (∀ i < nv,
          (bad → vget coef.fl i = vget s.d.oldcoef.fl i ∧ vget old.fl i = Config.fOfInt 0) ∧
          (¬ bad → vget coef.fl i = vget s.w.coef.fl i ∧ vget old.fl i = vget s.w.coef.fl i)) ∧
        (∀ i, nv ≤ i → i < blk → vget coef.fl i = Config.fOfInt 0) ∧
        (∀ i, blk ≤ i → vget coef.fl i = vget s.w.coef.fl i) ∧
        ∀ i, nv ≤ i → vget old.fl i = vget s.d.oldcoef.fl i)

/-! ## Host accesses -/

/-- 10_state.md R21 to R26, 20_memory.md R76, R79, R81: what each host read gives, `STATUS` bit by bit, and
that a read changes nothing; a cell that nothing has written is a fault (log entry 3). That a sample or a byte
is zero-extended into the 32-bit value is the model's choice (log entry 29, DESIGN CHOICE). -/
def Obligations.HostReadsGiveTheStoredValueOnly : Prop :=
  ∀ (s : State) (a : HostAccess) (rest : List HostAccess), s.seq.phase = 0x00#8 →
    s.host.pending = a :: rest →
    let gives : Word → Prop := fun v =>
      step s = .next (s.setHost { s.host with pending := rest, readData := v })
    (a = .regRead 0x00 32 → gives 0#32) ∧ (a = .regRead 0x04 32 → gives s.arg0) ∧
    (a = .regRead 0x08 32 → gives s.arg1) ∧ (a = .regRead 0x10 32 → gives s.result) ∧
    (a = .regRead 0x14 32 → gives s.errInfo) ∧
    (a = .regRead 0x0C 32 → ∃ v : Word, gives v ∧
      v.getLsbD 0 = false ∧ v.getLsbD 1 = s.e.valid ∧ v.getLsbD 2 = s.d.valid ∧
      v.getLsbD 3 = false ∧
      v.extractLsb' 4 4 = (match s.cmdErr with
        | .ok => 0#4 | .cfgErr => 1#4 | .noCtx => 2#4 | .illCmd => 3#4 | .bufErr => 4#4) ∧
      v.getLsbD 8 = s.ferrAny ∧ v.getLsbD 9 = (s.build.backend == .float) ∧
      ∀ k, 10 ≤ k → v.getLsbD k = false) ∧
    (∀ i x, a = .pcmRead i → i < pcmCap s → Memory.read s.pcm i = some x → gives (x.setWidth 32)) ∧
    (∀ i x, a = .bsRead i → i < bsCap s → Memory.read (w := 8) s.bs i = some x →
      gives (x.setWidth 32)) ∧
    (∀ i, a = .pcmRead i → i < pcmCap s → Memory.read s.pcm i = none →
      step s = .fault (.pcmUnwritten i)) ∧
    (∀ i, a = .bsRead i → i < bsCap s → Memory.read (w := 8) s.bs i = none →
      step s = .fault (.bsUnwritten i))

/-- R23, R76, R79: host writes store one value and change nothing else; accesses that are no operation of
the TCE are refused. -/
def Obligations.HostWritesStoreOneValueOrAreRefused : Prop :=
  ∀ (s : State) (a : HostAccess) (rest : List HostAccess), s.seq.phase = 0x00#8 →
    s.host.pending = a :: rest →
    let s' := s.setHost { s.host with pending := rest }
    (∀ v, a = .regWrite 0x04 32 v → step s = .next { s' with arg0 := v }) ∧
    (∀ v, a = .regWrite 0x08 32 v → step s = .next { s' with arg1 := v }) ∧
    (∀ i v, a = .pcmWrite i v → i < pcmCap s → ∃ m, step s = .next (s'.setPcm m) ∧
      ∀ b, Memory.read m b = if b = i then some v else Memory.read s.pcm b) ∧
    (∀ i v, a = .bsWrite i v → i < bsCap s → ∃ m, step s = .next (s'.setBs m) ∧
      ∀ b, Memory.read (w := 8) m b = if b = i then some v else Memory.read (w := 8) s.bs b) ∧
    (∀ off v, a = .regWrite off 32 v → off = 0x0C ∨ off = 0x10 ∨ off = 0x14 →
      step s = .refused (.readOnlyRegister off)) ∧
    (∀ off width v, a = .regRead off width ∨ a = .regWrite off width v →
      width ≠ 32 ∨ off % 4 ≠ 0 ∨ 0x14 < off → step s = .refused (.registerAccess off width)) ∧
    (∀ i v, a = .pcmRead i ∨ a = .pcmWrite i v → pcmCap s ≤ i → step s = .refused (.pcmIndex i)) ∧
    (∀ i v, a = .bsRead i ∨ a = .bsWrite i v → bsCap s ≤ i → step s = .refused (.bsIndex i))

/-! ## Basic operations -/

/-- 40_basic_ops.md R145, R149, R159, R160: the normalization helpers give the left shift that brings a value
into the top two bits, and that shift does not saturate; of 0 they give the sentinel. -/
def Obligations.NormalizationBringsTheTopBitUp : Prop :=
  (∀ (nz v : I16), v ≠ 0#16 →
    0 ≤ (norm16 nz v).toInt ∧ (norm16 nz v).toInt ≤ 15 ∧
    (0 < v.toInt → 16384 ≤ v.toInt * 2 ^ (norm16 nz v).toInt.toNat ∧
      v.toInt * 2 ^ (norm16 nz v).toInt.toNat ≤ 32767) ∧
    (v.toInt < -1 → -32768 ≤ v.toInt * 2 ^ (norm16 nz v).toInt.toNat ∧
      v.toInt * 2 ^ (norm16 nz v).toInt.toNat ≤ -16385) ∧
    (v.toInt = -1 → (norm16 nz v).toInt = 15) ∧
    (shl16 v (norm16 nz v).toInt).toInt = v.toInt * 2 ^ (norm16 nz v).toInt.toNat) ∧
  (∀ (nz : I16) (v : I32), v ≠ 0#32 →
    0 ≤ (norm32 nz v).toInt ∧ (norm32 nz v).toInt ≤ 31 ∧
    (0 < v.toInt → 1073741824 ≤ v.toInt * 2 ^ (norm32 nz v).toInt.toNat ∧
      v.toInt * 2 ^ (norm32 nz v).toInt.toNat ≤ 2147483647) ∧
    (v.toInt < -1 → -2147483648 ≤ v.toInt * 2 ^ (norm32 nz v).toInt.toNat ∧
      v.toInt * 2 ^ (norm32 nz v).toInt.toNat ≤ -1073741825) ∧
    (v.toInt = -1 → (norm32 nz v).toInt = 31) ∧
    (shl32 v (norm32 nz v).toInt).toInt = v.toInt * 2 ^ (norm32 nz v).toInt.toNat) ∧
  ∀ nz : I16, norm16 nz 0#16 = nz ∧ norm32 nz 0#32 = nz

/-- R141 to R158: the saturating operations answer the exact result clamped to the width; the plain product
is exact, a rounded accumulator or rounding shift is the nearest number, the upper one at a tie, a negative
count is the opposite shift, `xl` keeps the low 16 bits and `xh` the high ones. -/
def Obligations.BasicOperationsSaturateTheExactResult : Prop :=
  ∀ (a b : I16) (x y : I32),
    (add16 a b).toInt = sat16 (a.toInt + b.toInt) ∧ (sub16 a b).toInt = sat16 (a.toInt - b.toInt) ∧
    (neg16 a).toInt = (if a.toInt = -32768 then 32767 else -a.toInt) ∧
    (abs16 a).toInt = (if a.toInt = -32768 then 32767 else |a.toInt|) ∧
    (∀ n : Int, 0 ≤ n → (shl16 a n).toInt = sat16 (a.toInt * 2 ^ n.toNat) ∧
      (shr16 a n).toInt = a.toInt / 2 ^ n.toNat ∧ shl16 a (-n) = shr16 a n ∧
      shr16 a (-n) = shl16 a n) ∧
    (add32 x y).toInt = sat32 (x.toInt + y.toInt) ∧ (sub32 x y).toInt = sat32 (x.toInt - y.toInt) ∧
    (∀ n : Int, 0 ≤ n → (shl32 x n).toInt = sat32 (x.toInt * 2 ^ n.toNat) ∧
      (shr32 x n).toInt = x.toInt / 2 ^ n.toNat ∧ shl32 x (-n) = shr32 x n ∧
      shr32 x (-n) = shl32 x n) ∧
    (mult16 a b).toInt =
      (if a.toInt = -32768 ∧ b.toInt = -32768 then 32767 else a.toInt * b.toInt / 32768) ∧
    (lmult a b).toInt =
      (if a.toInt = -32768 ∧ b.toInt = -32768 then 2147483647 else 2 * a.toInt * b.toInt) ∧
    (lmult0 a b).toInt = a.toInt * b.toInt ∧
    (lmac x a b).toInt = sat32 (x.toInt + (lmult a b).toInt) ∧
    (lmac0 x a b).toInt = sat32 (x.toInt + a.toInt * b.toInt) ∧
    (round16 x).toInt = (min 2147483647 (x.toInt + 32768)) / 65536 ∧
    (∀ n : Nat, 0 < n → (rshr16 a n).toInt = (a.toInt + 2 ^ (n - 1)) / 2 ^ n ∧
      (rshr32 x n).toInt = (x.toInt + 2 ^ (n - 1)) / 2 ^ n) ∧
    (∀ n : Nat, rshr16 a (-n) = shl16 a n ∧ rshr32 x (-n) = shl32 x n) ∧
    (65536 : Int) ∣ x.toInt - (xl x).toInt ∧ (xh x).toInt = x.toInt / 65536
end

