-- ==== Sys2Proof/Laws/BasicOps.lean ====
section
/-! SUPPORT. The basic operations as functions of integers: each answers the saturated or exact value that
40_basic_ops.md gives, read back with no loss. -/

namespace Sys2Proof.Machine

theorem sat16_range (x : Int) : -32768 ≤ sat16 x ∧ sat16 x ≤ 32767 := by
  unfold sat16; omega

theorem sat32_range (x : Int) : -2147483648 ≤ sat32 x ∧ sat32 x ≤ 2147483647 := by
  unfold sat32; omega

theorem sat16_of_range {x : Int} (h : -32768 ≤ x) (h' : x ≤ 32767) : sat16 x = x := by
  unfold sat16; omega

theorem sat32_of_range {x : Int} (h : -2147483648 ≤ x) (h' : x ≤ 2147483647) : sat32 x = x := by
  unfold sat32; omega

theorem toInt_range16 (x : I16) : -32768 ≤ x.toInt ∧ x.toInt ≤ 32767 := by
  have h1 := BitVec.le_toInt x
  have h2 := BitVec.toInt_lt (x := x)
  norm_num at h1 h2
  omega

theorem toInt_range32 (x : I32) : -2147483648 ≤ x.toInt ∧ x.toInt ≤ 2147483647 := by
  have h1 := BitVec.le_toInt x
  have h2 := BitVec.toInt_lt (x := x)
  norm_num at h1 h2
  omega

/-- Narrowing to 16 bits keeps a value in range. -/
theorem toI16_toInt {x : Int} (h : -32768 ≤ x) (h' : x ≤ 32767) : (toI16 x).toInt = x := by
  unfold toI16
  rw [BitVec.toInt_ofInt]
  exact Int.bmod_eq_of_le (by norm_num; omega) (by norm_num; omega)

/-- Narrowing to 32 bits keeps a value in range. -/
theorem toI32_toInt {x : Int} (h : -2147483648 ≤ x) (h' : x ≤ 2147483647) : (toI32 x).toInt = x := by
  unfold toI32
  rw [BitVec.toInt_ofInt]
  exact Int.bmod_eq_of_le (by norm_num; omega) (by norm_num; omega)

@[simp] theorem toI16_sat16 (x : Int) : (toI16 (sat16 x)).toInt = sat16 x :=
  toI16_toInt (sat16_range x).1 (sat16_range x).2

@[simp] theorem toI32_sat32 (x : Int) : (toI32 (sat32 x)).toInt = sat32 x :=
  toI32_toInt (sat32_range x).1 (sat32_range x).2

@[simp] theorem toI16_of_toInt (x : I16) : toI16 x.toInt = x := by
  unfold toI16; exact BitVec.ofInt_toInt

@[simp] theorem toI32_of_toInt (x : I32) : toI32 x.toInt = x := by
  unfold toI32; exact BitVec.ofInt_toInt

theorem add16_toInt (a b : I16) : (add16 a b).toInt = sat16 (a.toInt + b.toInt) := toI16_sat16 _

theorem sub16_toInt (a b : I16) : (sub16 a b).toInt = sat16 (a.toInt - b.toInt) := toI16_sat16 _

theorem neg16_toInt (a : I16) : (neg16 a).toInt = sat16 (-a.toInt) := toI16_sat16 _

theorem abs16_toInt (a : I16) : (abs16 a).toInt = sat16 |a.toInt| := toI16_sat16 _

theorem add32_toInt (a b : I32) : (add32 a b).toInt = sat32 (a.toInt + b.toInt) := toI32_sat32 _

theorem sub32_toInt (a b : I32) : (sub32 a b).toInt = sat32 (a.toInt - b.toInt) := toI32_sat32 _

theorem mult16_toInt (a b : I16) : (mult16 a b).toInt = sat16 (a.toInt * b.toInt / 32768) :=
  toI16_sat16 _

theorem lmult_toInt (a b : I16) : (lmult a b).toInt = sat32 (2 * a.toInt * b.toInt) := toI32_sat32 _

/-- A product of two 16-bit numbers, in range of 32 bits. -/
theorem mul_range16 (a b : I16) :
    -1073741824 ≤ a.toInt * b.toInt ∧ a.toInt * b.toInt ≤ 1073741824 := by
  have ha := toInt_range16 a
  have hb := toInt_range16 b
  have h : |a.toInt * b.toInt| ≤ 1073741824 := by
    rw [abs_mul]
    have h1 : |a.toInt| ≤ 32768 := abs_le.mpr ⟨by omega, by omega⟩
    have h2 : |b.toInt| ≤ 32768 := abs_le.mpr ⟨by omega, by omega⟩
    calc |a.toInt| * |b.toInt| ≤ 32768 * 32768 :=
          mul_le_mul h1 h2 (abs_nonneg _) (by norm_num)
      _ = 1073741824 := by norm_num
  have := abs_le.mp h
  omega

theorem lmult0_toInt (a b : I16) : (lmult0 a b).toInt = a.toInt * b.toInt := by
  have := mul_range16 a b
  exact toI32_toInt (by omega) (by omega)

theorem lmac_toInt (acc : I32) (a b : I16) :
    (lmac acc a b).toInt = sat32 (acc.toInt + sat32 (2 * a.toInt * b.toInt)) := by
  rw [lmac, add32_toInt, lmult_toInt]

theorem lmac0_toInt (acc : I32) (a b : I16) :
    (lmac0 acc a b).toInt = sat32 (acc.toInt + a.toInt * b.toInt) := by
  rw [lmac0, add32_toInt, lmult0_toInt]

theorem round16_toInt (v : I32) : (round16 v).toInt = sat32 (v.toInt + 32768) / 65536 := by
  have h := sat32_range (v.toInt + 32768)
  rw [round16, add32_toInt, toI32_toInt (by norm_num) (by norm_num)]
  exact toI16_toInt (by omega) (by omega)

theorem shiftUp16_range (v n : Int) : -32768 ≤ shiftUp16 v n ∧ shiftUp16 v n ≤ 32767 := by
  unfold shiftUp16
  split
  · omega
  · split
    · split <;> omega
    · exact sat16_range _

theorem shiftUp32_range (v n : Int) : -2147483648 ≤ shiftUp32 v n ∧ shiftUp32 v n ≤ 2147483647 := by
  unfold shiftUp32
  split
  · omega
  · split
    · split <;> omega
    · exact sat32_range _

/-- A floor division by a power of two stays between the value and 0 or -1. -/
theorem ediv_pow_range (v : Int) (n : Nat) {lo hi : Int} (hlo : lo ≤ v) (hhi : v ≤ hi) (hl : lo ≤ -1)
    (hh : 0 ≤ hi) : lo ≤ v / 2 ^ n ∧ v / 2 ^ n ≤ hi := by
  have hp : (0 : Int) < 2 ^ n := by positivity
  have h1 : (1 : Int) ≤ 2 ^ n := hp
  constructor
  · rcases Int.lt_or_le v 0 with hv | hv
    · have : v ≤ v / 2 ^ n := by
        rw [Int.le_ediv_iff_mul_le hp]
        nlinarith
      omega
    · have := Int.ediv_nonneg hv hp.le
      omega
  · rcases Int.lt_or_le v 0 with hv | hv
    · have := Int.ediv_neg_of_neg_of_pos hv hp
      omega
    · have := Int.ediv_le_self (2 ^ n) hv
      omega

theorem shiftDown16_range (v : I16) (n : Int) :
    -32768 ≤ shiftDown16 v.toInt n ∧ shiftDown16 v.toInt n ≤ 32767 := by
  have h := toInt_range16 v
  unfold shiftDown16
  split
  · split <;> omega
  · exact ediv_pow_range _ _ h.1 h.2 (by norm_num) (by norm_num)

theorem shiftDown32_range (v : I32) (n : Int) :
    -2147483648 ≤ shiftDown32 v.toInt n ∧ shiftDown32 v.toInt n ≤ 2147483647 := by
  have h := toInt_range32 v
  unfold shiftDown32
  split
  · split <;> omega
  · exact ediv_pow_range _ _ h.1 h.2 (by norm_num) (by norm_num)

theorem shl16_toInt (v : I16) (n : Int) :
    (shl16 v n).toInt = if n < 0 then shiftDown16 v.toInt (-n) else shiftUp16 v.toInt n := by
  unfold shl16
  split
  · exact toI16_toInt (shiftDown16_range v _).1 (shiftDown16_range v _).2
  · exact toI16_toInt (shiftUp16_range _ _).1 (shiftUp16_range _ _).2

theorem shr16_toInt (v : I16) (n : Int) :
    (shr16 v n).toInt = if n < 0 then shiftUp16 v.toInt (-n) else shiftDown16 v.toInt n := by
  unfold shr16
  split
  · exact toI16_toInt (shiftUp16_range _ _).1 (shiftUp16_range _ _).2
  · exact toI16_toInt (shiftDown16_range v _).1 (shiftDown16_range v _).2

theorem shl32_toInt (v : I32) (n : Int) :
    (shl32 v n).toInt = if n < 0 then shiftDown32 v.toInt (-n) else shiftUp32 v.toInt n := by
  unfold shl32
  split
  · exact toI32_toInt (shiftDown32_range v _).1 (shiftDown32_range v _).2
  · exact toI32_toInt (shiftUp32_range _ _).1 (shiftUp32_range _ _).2

theorem shr32_toInt (v : I32) (n : Int) :
    (shr32 v n).toInt = if n < 0 then shiftUp32 v.toInt (-n) else shiftDown32 v.toInt n := by
  unfold shr32
  split
  · exact toI32_toInt (shiftUp32_range _ _).1 (shiftUp32_range _ _).2
  · exact toI32_toInt (shiftDown32_range v _).1 (shiftDown32_range v _).2

end Sys2Proof.Machine
end

