-- ==== Sys2Proof/Laws/Memory.lean ====
section
/-! SUPPORT. The memory operations of Machine/Memory.lean: reading after writing, and that every write
keeps the canonical form and the bound on addresses. -/

namespace Sys2Proof.Machine

variable {w : Nat}

/-- Every listed address is at least `lo`. -/
def Memory.above (m : Memory w) (lo : Nat) : Prop := ∀ c ∈ m, lo ≤ c.1

theorem Memory.wf_cons (a : Nat) (v : BitVec w) (m : Memory w) :
    Memory.wf ((a, v) :: m) = true ↔ Memory.above m (a + 1) ∧ Memory.wf m = true := by
  induction m generalizing a v with
  | nil => simp [Memory.wf, Memory.above]
  | cons c m ih =>
    obtain ⟨b, u⟩ := c
    have hb := ih b u
    constructor
    · intro h
      simp only [Memory.wf, Bool.and_eq_true, decide_eq_true_eq] at h
      refine ⟨?_, h.2⟩
      intro c hc
      rcases List.mem_cons.mp hc with rfl | hc
      · exact h.1
      · have := (hb.mp h.2).1 c hc
        omega
    · rintro ⟨h1, h2⟩
      simp only [Memory.wf, Bool.and_eq_true, decide_eq_true_eq]
      exact ⟨by simpa using h1 (b, u) (by simp), h2⟩

theorem Memory.read_of_above {m : Memory w} {lo a : Nat} (h : Memory.above m lo) (ha : a < lo) :
    Memory.read m a = none := by
  induction m with
  | nil => rfl
  | cons c m ih =>
    obtain ⟨b, u⟩ := c
    have hb : lo ≤ b := by simpa using h (b, u) (by simp)
    have : a ≠ b := by omega
    simp only [Memory.read, this, if_false]
    exact ih fun c hc => h c (List.mem_cons_of_mem _ hc)

/-- Reading where a write went gives its value; another address reads as before. -/
theorem Memory.read_write (m : Memory w) (a : Nat) (v : BitVec w) (b : Nat) :
    Memory.read (Memory.write m a v) b = if b = a then some v else Memory.read m b := by
  induction m with
  | nil => simp [Memory.write, Memory.read]
  | cons c m ih =>
    obtain ⟨x, u⟩ := c
    simp only [Memory.write]
    split
    · simp only [Memory.read]
    · split
      · rename_i h1 h2
        subst h2
        simp only [Memory.read]
        split <;> rfl
      · rename_i h1 h2
        simp only [Memory.read, ih]
        by_cases hx : b = x
        · have : b ≠ a := by omega
          simp [hx, Ne.symm h2]
        · simp [hx]

theorem Memory.above_write {m : Memory w} {lo a : Nat} (v : BitVec w) (h : Memory.above m lo)
    (ha : lo ≤ a) : Memory.above (Memory.write m a v) lo := by
  induction m with
  | nil => intro c hc; simp only [Memory.write, List.mem_singleton] at hc; simpa [hc] using ha
  | cons c m ih =>
    obtain ⟨x, u⟩ := c
    have hx : lo ≤ x := by simpa using h (x, u) (by simp)
    have hm : Memory.above m lo := fun c hc => h c (List.mem_cons_of_mem _ hc)
    simp only [Memory.write]
    split
    · intro c hc
      rcases List.mem_cons.mp hc with rfl | hc
      · exact ha
      · exact h c hc
    · split
      · intro c hc
        rcases List.mem_cons.mp hc with rfl | hc
        · exact ha
        · exact hm c hc
      · intro c hc
        rcases List.mem_cons.mp hc with rfl | hc
        · exact hx
        · exact ih hm c hc

/-- A write keeps the canonical form. -/
theorem Memory.wf_write {m : Memory w} (a : Nat) (v : BitVec w) (h : Memory.wf m = true) :
    Memory.wf (Memory.write m a v) = true := by
  induction m with
  | nil => rfl
  | cons c m ih =>
    obtain ⟨x, u⟩ := c
    obtain ⟨h1, h2⟩ := (Memory.wf_cons x u m).mp h
    simp only [Memory.write]
    split
    · rename_i hlt
      refine (Memory.wf_cons a v _).mpr ⟨?_, h⟩
      intro c hc
      rcases List.mem_cons.mp hc with rfl | hc
      · exact hlt
      · have := h1 c hc
        omega
    · split
      · rename_i h3 h4
        subst h4
        exact (Memory.wf_cons a v m).mpr ⟨h1, h2⟩
      · rename_i h3 h4
        exact (Memory.wf_cons x u _).mpr ⟨Memory.above_write v h1 (by omega), ih h2⟩

/-- A write below the capacity keeps every address below it. -/
theorem Memory.within_write {m : Memory w} {cap a : Nat} (v : BitVec w)
    (h : Memory.within m cap = true) (ha : a < cap) :
    Memory.within (Memory.write m a v) cap = true := by
  induction m with
  | nil => simpa [Memory.within, Memory.write] using ha
  | cons c m ih =>
    obtain ⟨x, u⟩ := c
    simp only [Memory.within, List.all_cons, Bool.and_eq_true, decide_eq_true_eq] at h
    simp only [Memory.write]
    split
    · simp only [Memory.within, List.all_cons, Bool.and_eq_true, decide_eq_true_eq]
      exact ⟨ha, h.1, h.2⟩
    · split
      · simp only [Memory.within, List.all_cons, Bool.and_eq_true, decide_eq_true_eq]
        exact ⟨ha, h.2⟩
      · simp only [Memory.within, List.all_cons, Bool.and_eq_true, decide_eq_true_eq]
        exact ⟨h.1, ih h.2⟩

/-- A listed address of a memory within a capacity is below it. -/
theorem Memory.lt_of_read {m : Memory w} {cap a : Nat} (h : Memory.within m cap = true)
    (ha : (Memory.read m a).isSome = true) : a < cap := by
  induction m with
  | nil => simp [Memory.read] at ha
  | cons c m ih =>
    obtain ⟨x, u⟩ := c
    simp only [Memory.within, List.all_cons, Bool.and_eq_true, decide_eq_true_eq] at h
    simp only [Memory.read] at ha
    split at ha
    · rename_i hx
      omega
    · exact ih h.2 ha

theorem Memory.read_writeList (m : Memory w) (a : Nat) (vs : List (BitVec w)) (b : Nat) :
    Memory.read (Memory.writeList m a vs) b =
      if a ≤ b ∧ b < a + vs.length then some (vs.getD (b - a) 0#w) else Memory.read m b := by
  induction vs generalizing m a with
  | nil =>
    have : ¬ (a ≤ b ∧ b < a) := by omega
    simp [Memory.writeList, this]
  | cons v vs ih =>
    rw [Memory.writeList, ih, Memory.read_write]
    by_cases hab : b = a
    · subst hab
      simp
    · rw [if_neg hab]
      by_cases hin : a + 1 ≤ b ∧ b < a + 1 + vs.length
      · have h2 : a ≤ b ∧ b < a + (v :: vs).length := by simp only [List.length_cons]; omega
        have h3 : b - a = (b - (a + 1)) + 1 := by omega
        rw [if_pos hin, if_pos h2, h3, List.getD_cons_succ]
      · have h2 : ¬ (a ≤ b ∧ b < a + (v :: vs).length) := by simp only [List.length_cons]; omega
        rw [if_neg hin, if_neg h2]

theorem Memory.wf_writeList {m : Memory w} (a : Nat) (vs : List (BitVec w)) (h : Memory.wf m = true) :
    Memory.wf (Memory.writeList m a vs) = true := by
  induction vs generalizing m a with
  | nil => exact h
  | cons v vs ih => exact ih (a + 1) (Memory.wf_write a v h)

theorem Memory.within_writeList {m : Memory w} {cap : Nat} (a : Nat) (vs : List (BitVec w))
    (h : Memory.within m cap = true) (ha : a + vs.length ≤ cap) :
    Memory.within (Memory.writeList m a vs) cap = true := by
  induction vs generalizing m a with
  | nil => exact h
  | cons v vs ih =>
    simp only [List.length_cons] at ha
    exact ih (a + 1) (Memory.within_write v h (by omega)) (by omega)

/-- Two memories in canonical form that read the same everywhere are equal. -/
theorem Memory.ext_read {m k : Memory w} (hm : Memory.wf m = true) (hk : Memory.wf k = true)
    (h : ∀ a, Memory.read m a = Memory.read k a) : m = k := by
  induction m generalizing k with
  | nil =>
    cases k with
    | nil => rfl
    | cons c k => have := h c.1; simp [Memory.read] at this
  | cons c m ih =>
    obtain ⟨a, v⟩ := c
    obtain ⟨ha, hm'⟩ := (Memory.wf_cons a v m).mp hm
    cases k with
    | nil => have := h a; simp [Memory.read] at this
    | cons e k =>
      obtain ⟨b, u⟩ := e
      obtain ⟨hb, hk'⟩ := (Memory.wf_cons b u k).mp hk
      have hab : a = b := by
        rcases Nat.lt_trichotomy a b with hlt | heq | hgt
        · have h1 := h a
          have h2 : a ≠ b := by omega
          rw [Memory.read, Memory.read, if_pos rfl, if_neg h2, Memory.read_of_above hb (by omega)] at h1
          cases h1
        · exact heq
        · have h1 := h b
          have h2 : b ≠ a := by omega
          rw [Memory.read, Memory.read, if_pos rfl, if_neg h2, Memory.read_of_above ha (by omega)] at h1
          cases h1
      subst hab
      have hv : v = u := by have := h a; simpa [Memory.read] using this
      subst hv
      refine congrArg _ (ih hm' hk' fun x => ?_)
      by_cases hx : x = a
      · subst hx
        rw [Memory.read_of_above ha (by omega), Memory.read_of_above hb (by omega)]
      · have := h x
        simpa [Memory.read, hx] using this

/-! ## The engine's reads -/

theorem readPcm_of_read {s : State} {i : Nat} {v : BitVec 16} (h : Memory.read s.pcm i = some v)
    (hc : i < pcmCap s) : readPcm s i = .ok v := by simp [readPcm, h, hc]

theorem readBs_of_read {s : State} {i : Nat} {v : Byte} (h : Memory.read (w := 8) s.bs i = some v)
    (hc : i < bsCap s) : readBs s i = .ok v := by simp [readBs, h, hc]

/-- The read of a block of samples that have been written, inside the capacity. -/
theorem readPcmList_ok {s : State} {a n : Nat}
    (h : ∀ i, a ≤ i → i < a + n → (Memory.read s.pcm i).isSome = true) (hc : a + n ≤ pcmCap s) :
    readPcmList s a n = .ok ((List.range n).map fun i => (Memory.read s.pcm (a + i)).getD 0#16) := by
  induction n generalizing a with
  | zero => rfl
  | succ n ih =>
    obtain ⟨v, hv⟩ := Option.isSome_iff_exists.mp (h a (by omega) (by omega))
    rw [readPcmList, readPcm_of_read hv (by omega),
      ih (fun i h1 h2 => h i (by omega) (by omega)) (by omega)]
    simp only [List.range_succ_eq_map, List.map_cons, List.map_map, Nat.add_zero, hv, Option.getD_some]
    congr 2
    apply List.map_congr_left
    intro i _
    simp only [Function.comp]
    congr 2
    omega

/-- If the read of a block answers, it answers the samples, one for each index. -/
theorem length_readPcmList {s : State} {a n : Nat} {xs : List (BitVec 16)}
    (h : readPcmList s a n = .ok xs) : xs.length = n := by
  induction n generalizing a xs with
  | zero => simp only [readPcmList, Except.ok.injEq] at h; simp [← h]
  | succ n ih =>
    rw [readPcmList] at h
    split at h
    · cases h
    · split at h
      · cases h
      · rename_i heq
        simp only [Except.ok.injEq] at h
        simp [← h, ih heq]

end Sys2Proof.Machine
end

