-- ==== Sys2Proof/Laws/Numerics.lean ====
section
/-! SUPPORT. The arithmetic of `F` on zeros, its order, `floorF` and `rint` on numbers, and what rounding to
the nearest integer with ties to even means. -/

namespace Sys2Proof.Config

@[simp] theorem fKind_toF_zero : fKind (fOfInt 0) = .number 0 := by simp [fKind]

@[simp] theorem fKind_fStandsFor (exact rounded : FVal) :
    fKind (fStandsFor exact rounded) = fKind exact := by
  unfold fStandsFor
  split <;> simp_all

@[simp] theorem fIsZero_eq_true {v : FVal} : fIsZero v = true ↔ fKind v = .number 0 := by
  simp [fIsZero]

theorem fIsNumber_eq_true {v : FVal} : fIsNumber v = true ↔ ∃ x, fKind v = .number x := by
  unfold fIsNumber
  cases fKind v <;> simp

@[simp] theorem fIsNumber_of_number {v : FVal} {x : ℚ} (h : fKind v = .number x) : fIsNumber v = true :=
  fIsNumber_eq_true.mpr ⟨x, h⟩

theorem fKind_fAdd_zero {a b : FVal} {x : ℚ} (ha : fKind a = .number x) (hb : fKind b = .number 0) :
    fKind (fAdd a b) = .number x := by
  simp [fAdd, fIsZero, ha, hb]

theorem fKind_fSub_zero {a b : FVal} {x : ℚ} (ha : fKind a = .number x) (hb : fKind b = .number 0) :
    fKind (fSub a b) = .number x := by
  simp [fSub, fIsZero, ha, hb]

theorem fKind_zero_fMul {a b : FVal} (ha : fKind a = .number 0) (hb : fIsNumber b = true) :
    fKind (fMul a b) = .number 0 := by
  simp [fMul, fIsZero, ha, hb]

theorem fKind_fMul_zero {a b : FVal} (ha : fIsNumber a = true) (hb : fKind b = .number 0) :
    fKind (fMul a b) = .number 0 := by
  simp [fMul, fIsZero, ha, hb]

theorem fKind_zero_fDiv {a b : FVal} {y : ℚ} (ha : fKind a = .number 0) (hb : fKind b = .number y)
    (hy : y ≠ 0) : fKind (fDiv a b) = .number 0 := by
  simp [fDiv, fIsZero, ha, hb, hy]

theorem fKind_fNeg_zero {a : FVal} (ha : fKind a = .number 0) : fKind (fNeg a) = .number 0 := by
  simp [fNeg, fIsZero, ha]

theorem fKind_fAbs_zero {a : FVal} (ha : fKind a = .number 0) : fKind (fAbs a) = .number 0 := by
  simp [fAbs, fIsZero, ha]

theorem fLt_number {a b : FVal} {x y : ℚ} (ha : fKind a = .number x) (hb : fKind b = .number y) :
    fLt a b = decide (x < y) := by simp [fLt, ha, hb]

theorem fEq_number {a b : FVal} {x y : ℚ} (ha : fKind a = .number x) (hb : fKind b = .number y) :
    fEq a b = decide (x = y) := by simp [fEq, ha, hb]

theorem fFloor_number {v : FVal} {x : ℚ} (h : fKind v = .number x) : fFloor v = x.floor := by
  simp [fFloor, h]

theorem fRint_number {v : FVal} {x : ℚ} (h : fKind v = .number x) : fRint v = nearestEven x := by
  simp [fRint, h]

/-- A number is less than one away above its floor. -/
theorem floor_bounds (x : ℚ) : (x.floor : ℚ) ≤ x ∧ x < x.floor + 1 :=
  ⟨Int.floor_le x, Int.lt_floor_add_one x⟩

/-- The rounded integer is at most a half away, and even where it is exactly a half away. -/
theorem nearestEven_spec (x : ℚ) :
    |x - nearestEven x| ≤ 1 / 2 ∧ (|x - nearestEven x| = 1 / 2 → nearestEven x % 2 = 0) := by
  obtain ⟨h1, h2⟩ := floor_bounds x
  unfold nearestEven
  simp only
  split_ifs with ha hb hc
  · rw [abs_of_nonneg (by linarith)]
    exact ⟨by linarith, fun h => by linarith⟩
  · push_cast
    rw [abs_of_nonpos (by linarith)]
    exact ⟨by linarith, fun h => by linarith⟩
  · rw [abs_of_nonneg (by linarith)]
    exact ⟨by linarith, fun _ => hc⟩
  · push_cast
    rw [abs_of_nonpos (by linarith)]
    exact ⟨by linarith, fun _ => by omega⟩

end Sys2Proof.Config
end

