-- ==== Sys2Proof/Laws/State.lean ====
section
/-! SUPPORT. One lemma per field for each named update of the state (Machine/Ops.lean), so that no proof
unfolds a record update. -/

namespace Sys2Proof.Machine

@[simp] theorem State.setE_build (s : State) (e : Encoder) : (s.setE e).build = s.build := rfl
@[simp] theorem State.setE_arg0 (s : State) (e : Encoder) : (s.setE e).arg0 = s.arg0 := rfl
@[simp] theorem State.setE_arg1 (s : State) (e : Encoder) : (s.setE e).arg1 = s.arg1 := rfl
@[simp] theorem State.setE_cmdErr (s : State) (e : Encoder) : (s.setE e).cmdErr = s.cmdErr := rfl
@[simp] theorem State.setE_ferrAny (s : State) (e : Encoder) : (s.setE e).ferrAny = s.ferrAny := rfl
@[simp] theorem State.setE_result (s : State) (e : Encoder) : (s.setE e).result = s.result := rfl
@[simp] theorem State.setE_errInfo (s : State) (e : Encoder) : (s.setE e).errInfo = s.errInfo := rfl
@[simp] theorem State.setE_e (s : State) (e : Encoder) : (s.setE e).e = e := rfl
@[simp] theorem State.setE_d (s : State) (e : Encoder) : (s.setE e).d = s.d := rfl
@[simp] theorem State.setE_w (s : State) (e : Encoder) : (s.setE e).w = s.w := rfl
@[simp] theorem State.setE_seq (s : State) (e : Encoder) : (s.setE e).seq = s.seq := rfl
@[simp] theorem State.setE_pcm (s : State) (e : Encoder) : (s.setE e).pcm = s.pcm := rfl
@[simp] theorem State.setE_bs (s : State) (e : Encoder) : (s.setE e).bs = s.bs := rfl
@[simp] theorem State.setE_port (s : State) (e : Encoder) : (s.setE e).port = s.port := rfl
@[simp] theorem State.setE_host (s : State) (e : Encoder) : (s.setE e).host = s.host := rfl
@[simp] theorem State.setE_freeCount (s : State) (e : Encoder) : (s.setE e).freeCount = s.freeCount := rfl

@[simp] theorem State.setD_build (s : State) (d : Decoder) : (s.setD d).build = s.build := rfl
@[simp] theorem State.setD_arg0 (s : State) (d : Decoder) : (s.setD d).arg0 = s.arg0 := rfl
@[simp] theorem State.setD_arg1 (s : State) (d : Decoder) : (s.setD d).arg1 = s.arg1 := rfl
@[simp] theorem State.setD_cmdErr (s : State) (d : Decoder) : (s.setD d).cmdErr = s.cmdErr := rfl
@[simp] theorem State.setD_ferrAny (s : State) (d : Decoder) : (s.setD d).ferrAny = s.ferrAny := rfl
@[simp] theorem State.setD_result (s : State) (d : Decoder) : (s.setD d).result = s.result := rfl
@[simp] theorem State.setD_errInfo (s : State) (d : Decoder) : (s.setD d).errInfo = s.errInfo := rfl
@[simp] theorem State.setD_e (s : State) (d : Decoder) : (s.setD d).e = s.e := rfl
@[simp] theorem State.setD_d (s : State) (d : Decoder) : (s.setD d).d = d := rfl
@[simp] theorem State.setD_w (s : State) (d : Decoder) : (s.setD d).w = s.w := rfl
@[simp] theorem State.setD_seq (s : State) (d : Decoder) : (s.setD d).seq = s.seq := rfl
@[simp] theorem State.setD_pcm (s : State) (d : Decoder) : (s.setD d).pcm = s.pcm := rfl
@[simp] theorem State.setD_bs (s : State) (d : Decoder) : (s.setD d).bs = s.bs := rfl
@[simp] theorem State.setD_port (s : State) (d : Decoder) : (s.setD d).port = s.port := rfl
@[simp] theorem State.setD_host (s : State) (d : Decoder) : (s.setD d).host = s.host := rfl
@[simp] theorem State.setD_freeCount (s : State) (d : Decoder) : (s.setD d).freeCount = s.freeCount := rfl

@[simp] theorem State.setW_build (s : State) (w : WorkRegs) : (s.setW w).build = s.build := rfl
@[simp] theorem State.setW_arg0 (s : State) (w : WorkRegs) : (s.setW w).arg0 = s.arg0 := rfl
@[simp] theorem State.setW_arg1 (s : State) (w : WorkRegs) : (s.setW w).arg1 = s.arg1 := rfl
@[simp] theorem State.setW_cmdErr (s : State) (w : WorkRegs) : (s.setW w).cmdErr = s.cmdErr := rfl
@[simp] theorem State.setW_ferrAny (s : State) (w : WorkRegs) : (s.setW w).ferrAny = s.ferrAny := rfl
@[simp] theorem State.setW_result (s : State) (w : WorkRegs) : (s.setW w).result = s.result := rfl
@[simp] theorem State.setW_errInfo (s : State) (w : WorkRegs) : (s.setW w).errInfo = s.errInfo := rfl
@[simp] theorem State.setW_e (s : State) (w : WorkRegs) : (s.setW w).e = s.e := rfl
@[simp] theorem State.setW_d (s : State) (w : WorkRegs) : (s.setW w).d = s.d := rfl
@[simp] theorem State.setW_w (s : State) (w : WorkRegs) : (s.setW w).w = w := rfl
@[simp] theorem State.setW_seq (s : State) (w : WorkRegs) : (s.setW w).seq = s.seq := rfl
@[simp] theorem State.setW_pcm (s : State) (w : WorkRegs) : (s.setW w).pcm = s.pcm := rfl
@[simp] theorem State.setW_bs (s : State) (w : WorkRegs) : (s.setW w).bs = s.bs := rfl
@[simp] theorem State.setW_port (s : State) (w : WorkRegs) : (s.setW w).port = s.port := rfl
@[simp] theorem State.setW_host (s : State) (w : WorkRegs) : (s.setW w).host = s.host := rfl
@[simp] theorem State.setW_freeCount (s : State) (w : WorkRegs) : (s.setW w).freeCount = s.freeCount := rfl

@[simp] theorem State.setSeq_build (s : State) (q : SeqRegs) : (s.setSeq q).build = s.build := rfl
@[simp] theorem State.setSeq_arg0 (s : State) (q : SeqRegs) : (s.setSeq q).arg0 = s.arg0 := rfl
@[simp] theorem State.setSeq_arg1 (s : State) (q : SeqRegs) : (s.setSeq q).arg1 = s.arg1 := rfl
@[simp] theorem State.setSeq_cmdErr (s : State) (q : SeqRegs) : (s.setSeq q).cmdErr = s.cmdErr := rfl
@[simp] theorem State.setSeq_ferrAny (s : State) (q : SeqRegs) : (s.setSeq q).ferrAny = s.ferrAny := rfl
@[simp] theorem State.setSeq_result (s : State) (q : SeqRegs) : (s.setSeq q).result = s.result := rfl
@[simp] theorem State.setSeq_errInfo (s : State) (q : SeqRegs) : (s.setSeq q).errInfo = s.errInfo := rfl
@[simp] theorem State.setSeq_e (s : State) (q : SeqRegs) : (s.setSeq q).e = s.e := rfl
@[simp] theorem State.setSeq_d (s : State) (q : SeqRegs) : (s.setSeq q).d = s.d := rfl
@[simp] theorem State.setSeq_w (s : State) (q : SeqRegs) : (s.setSeq q).w = s.w := rfl
@[simp] theorem State.setSeq_seq (s : State) (q : SeqRegs) : (s.setSeq q).seq = q := rfl
@[simp] theorem State.setSeq_pcm (s : State) (q : SeqRegs) : (s.setSeq q).pcm = s.pcm := rfl
@[simp] theorem State.setSeq_bs (s : State) (q : SeqRegs) : (s.setSeq q).bs = s.bs := rfl
@[simp] theorem State.setSeq_port (s : State) (q : SeqRegs) : (s.setSeq q).port = s.port := rfl
@[simp] theorem State.setSeq_host (s : State) (q : SeqRegs) : (s.setSeq q).host = s.host := rfl
@[simp] theorem State.setSeq_freeCount (s : State) (q : SeqRegs) : (s.setSeq q).freeCount = s.freeCount := rfl

@[simp] theorem State.setPcm_build (s : State) (m : Memory 16) : (s.setPcm m).build = s.build := rfl
@[simp] theorem State.setPcm_arg0 (s : State) (m : Memory 16) : (s.setPcm m).arg0 = s.arg0 := rfl
@[simp] theorem State.setPcm_arg1 (s : State) (m : Memory 16) : (s.setPcm m).arg1 = s.arg1 := rfl
@[simp] theorem State.setPcm_cmdErr (s : State) (m : Memory 16) : (s.setPcm m).cmdErr = s.cmdErr := rfl
@[simp] theorem State.setPcm_ferrAny (s : State) (m : Memory 16) : (s.setPcm m).ferrAny = s.ferrAny := rfl
@[simp] theorem State.setPcm_result (s : State) (m : Memory 16) : (s.setPcm m).result = s.result := rfl
@[simp] theorem State.setPcm_errInfo (s : State) (m : Memory 16) : (s.setPcm m).errInfo = s.errInfo := rfl
@[simp] theorem State.setPcm_e (s : State) (m : Memory 16) : (s.setPcm m).e = s.e := rfl
@[simp] theorem State.setPcm_d (s : State) (m : Memory 16) : (s.setPcm m).d = s.d := rfl
@[simp] theorem State.setPcm_w (s : State) (m : Memory 16) : (s.setPcm m).w = s.w := rfl
@[simp] theorem State.setPcm_seq (s : State) (m : Memory 16) : (s.setPcm m).seq = s.seq := rfl
@[simp] theorem State.setPcm_pcm (s : State) (m : Memory 16) : (s.setPcm m).pcm = m := rfl
@[simp] theorem State.setPcm_bs (s : State) (m : Memory 16) : (s.setPcm m).bs = s.bs := rfl
@[simp] theorem State.setPcm_port (s : State) (m : Memory 16) : (s.setPcm m).port = s.port := rfl
@[simp] theorem State.setPcm_host (s : State) (m : Memory 16) : (s.setPcm m).host = s.host := rfl
@[simp] theorem State.setPcm_freeCount (s : State) (m : Memory 16) : (s.setPcm m).freeCount = s.freeCount := rfl

@[simp] theorem State.setBs_build (s : State) (m : List Host.Cell) : (s.setBs m).build = s.build := rfl
@[simp] theorem State.setBs_arg0 (s : State) (m : List Host.Cell) : (s.setBs m).arg0 = s.arg0 := rfl
@[simp] theorem State.setBs_arg1 (s : State) (m : List Host.Cell) : (s.setBs m).arg1 = s.arg1 := rfl
@[simp] theorem State.setBs_cmdErr (s : State) (m : List Host.Cell) : (s.setBs m).cmdErr = s.cmdErr := rfl
@[simp] theorem State.setBs_ferrAny (s : State) (m : List Host.Cell) : (s.setBs m).ferrAny = s.ferrAny := rfl
@[simp] theorem State.setBs_result (s : State) (m : List Host.Cell) : (s.setBs m).result = s.result := rfl
@[simp] theorem State.setBs_errInfo (s : State) (m : List Host.Cell) : (s.setBs m).errInfo = s.errInfo := rfl
@[simp] theorem State.setBs_e (s : State) (m : List Host.Cell) : (s.setBs m).e = s.e := rfl
@[simp] theorem State.setBs_d (s : State) (m : List Host.Cell) : (s.setBs m).d = s.d := rfl
@[simp] theorem State.setBs_w (s : State) (m : List Host.Cell) : (s.setBs m).w = s.w := rfl
@[simp] theorem State.setBs_seq (s : State) (m : List Host.Cell) : (s.setBs m).seq = s.seq := rfl
@[simp] theorem State.setBs_pcm (s : State) (m : List Host.Cell) : (s.setBs m).pcm = s.pcm := rfl
@[simp] theorem State.setBs_bs (s : State) (m : List Host.Cell) : (s.setBs m).bs = m := rfl
@[simp] theorem State.setBs_port (s : State) (m : List Host.Cell) : (s.setBs m).port = s.port := rfl
@[simp] theorem State.setBs_host (s : State) (m : List Host.Cell) : (s.setBs m).host = s.host := rfl
@[simp] theorem State.setBs_freeCount (s : State) (m : List Host.Cell) : (s.setBs m).freeCount = s.freeCount := rfl

@[simp] theorem State.setPort_build (s : State) (p : UopPort) : (s.setPort p).build = s.build := rfl
@[simp] theorem State.setPort_arg0 (s : State) (p : UopPort) : (s.setPort p).arg0 = s.arg0 := rfl
@[simp] theorem State.setPort_arg1 (s : State) (p : UopPort) : (s.setPort p).arg1 = s.arg1 := rfl
@[simp] theorem State.setPort_cmdErr (s : State) (p : UopPort) : (s.setPort p).cmdErr = s.cmdErr := rfl
@[simp] theorem State.setPort_ferrAny (s : State) (p : UopPort) : (s.setPort p).ferrAny = s.ferrAny := rfl
@[simp] theorem State.setPort_result (s : State) (p : UopPort) : (s.setPort p).result = s.result := rfl
@[simp] theorem State.setPort_errInfo (s : State) (p : UopPort) : (s.setPort p).errInfo = s.errInfo := rfl
@[simp] theorem State.setPort_e (s : State) (p : UopPort) : (s.setPort p).e = s.e := rfl
@[simp] theorem State.setPort_d (s : State) (p : UopPort) : (s.setPort p).d = s.d := rfl
@[simp] theorem State.setPort_w (s : State) (p : UopPort) : (s.setPort p).w = s.w := rfl
@[simp] theorem State.setPort_seq (s : State) (p : UopPort) : (s.setPort p).seq = s.seq := rfl
@[simp] theorem State.setPort_pcm (s : State) (p : UopPort) : (s.setPort p).pcm = s.pcm := rfl
@[simp] theorem State.setPort_bs (s : State) (p : UopPort) : (s.setPort p).bs = s.bs := rfl
@[simp] theorem State.setPort_port (s : State) (p : UopPort) : (s.setPort p).port = p := rfl
@[simp] theorem State.setPort_host (s : State) (p : UopPort) : (s.setPort p).host = s.host := rfl
@[simp] theorem State.setPort_freeCount (s : State) (p : UopPort) : (s.setPort p).freeCount = s.freeCount := rfl

@[simp] theorem State.setHost_build (s : State) (h : HostPort) : (s.setHost h).build = s.build := rfl
@[simp] theorem State.setHost_arg0 (s : State) (h : HostPort) : (s.setHost h).arg0 = s.arg0 := rfl
@[simp] theorem State.setHost_arg1 (s : State) (h : HostPort) : (s.setHost h).arg1 = s.arg1 := rfl
@[simp] theorem State.setHost_cmdErr (s : State) (h : HostPort) : (s.setHost h).cmdErr = s.cmdErr := rfl
@[simp] theorem State.setHost_ferrAny (s : State) (h : HostPort) : (s.setHost h).ferrAny = s.ferrAny := rfl
@[simp] theorem State.setHost_result (s : State) (h : HostPort) : (s.setHost h).result = s.result := rfl
@[simp] theorem State.setHost_errInfo (s : State) (h : HostPort) : (s.setHost h).errInfo = s.errInfo := rfl
@[simp] theorem State.setHost_e (s : State) (h : HostPort) : (s.setHost h).e = s.e := rfl
@[simp] theorem State.setHost_d (s : State) (h : HostPort) : (s.setHost h).d = s.d := rfl
@[simp] theorem State.setHost_w (s : State) (h : HostPort) : (s.setHost h).w = s.w := rfl
@[simp] theorem State.setHost_seq (s : State) (h : HostPort) : (s.setHost h).seq = s.seq := rfl
@[simp] theorem State.setHost_pcm (s : State) (h : HostPort) : (s.setHost h).pcm = s.pcm := rfl
@[simp] theorem State.setHost_bs (s : State) (h : HostPort) : (s.setHost h).bs = s.bs := rfl
@[simp] theorem State.setHost_port (s : State) (h : HostPort) : (s.setHost h).port = s.port := rfl
@[simp] theorem State.setHost_host (s : State) (h : HostPort) : (s.setHost h).host = h := rfl
@[simp] theorem State.setHost_freeCount (s : State) (h : HostPort) : (s.setHost h).freeCount = s.freeCount := rfl

@[simp] theorem State.setPhase_build (s : State) (c : Byte) : (s.setPhase c).build = s.build := rfl
@[simp] theorem State.setPhase_arg0 (s : State) (c : Byte) : (s.setPhase c).arg0 = s.arg0 := rfl
@[simp] theorem State.setPhase_arg1 (s : State) (c : Byte) : (s.setPhase c).arg1 = s.arg1 := rfl
@[simp] theorem State.setPhase_cmdErr (s : State) (c : Byte) : (s.setPhase c).cmdErr = s.cmdErr := rfl
@[simp] theorem State.setPhase_ferrAny (s : State) (c : Byte) : (s.setPhase c).ferrAny = s.ferrAny := rfl
@[simp] theorem State.setPhase_result (s : State) (c : Byte) : (s.setPhase c).result = s.result := rfl
@[simp] theorem State.setPhase_errInfo (s : State) (c : Byte) : (s.setPhase c).errInfo = s.errInfo := rfl
@[simp] theorem State.setPhase_e (s : State) (c : Byte) : (s.setPhase c).e = s.e := rfl
@[simp] theorem State.setPhase_d (s : State) (c : Byte) : (s.setPhase c).d = s.d := rfl
@[simp] theorem State.setPhase_w (s : State) (c : Byte) : (s.setPhase c).w = s.w := rfl
@[simp] theorem State.setPhase_seq (s : State) (c : Byte) : (s.setPhase c).seq = { s.seq with phase := c } := rfl
@[simp] theorem State.setPhase_pcm (s : State) (c : Byte) : (s.setPhase c).pcm = s.pcm := rfl
@[simp] theorem State.setPhase_bs (s : State) (c : Byte) : (s.setPhase c).bs = s.bs := rfl
@[simp] theorem State.setPhase_port (s : State) (c : Byte) : (s.setPhase c).port = s.port := rfl
@[simp] theorem State.setPhase_host (s : State) (c : Byte) : (s.setPhase c).host = s.host := rfl
@[simp] theorem State.setPhase_freeCount (s : State) (c : Byte) : (s.setPhase c).freeCount = s.freeCount := rfl

@[simp] theorem State.setFrame_build (s : State) (f : Nat) : (s.setFrame f).build = s.build := rfl
@[simp] theorem State.setFrame_arg0 (s : State) (f : Nat) : (s.setFrame f).arg0 = s.arg0 := rfl
@[simp] theorem State.setFrame_arg1 (s : State) (f : Nat) : (s.setFrame f).arg1 = s.arg1 := rfl
@[simp] theorem State.setFrame_cmdErr (s : State) (f : Nat) : (s.setFrame f).cmdErr = s.cmdErr := rfl
@[simp] theorem State.setFrame_ferrAny (s : State) (f : Nat) : (s.setFrame f).ferrAny = s.ferrAny := rfl
@[simp] theorem State.setFrame_result (s : State) (f : Nat) : (s.setFrame f).result = s.result := rfl
@[simp] theorem State.setFrame_errInfo (s : State) (f : Nat) : (s.setFrame f).errInfo = s.errInfo := rfl
@[simp] theorem State.setFrame_e (s : State) (f : Nat) : (s.setFrame f).e = s.e := rfl
@[simp] theorem State.setFrame_d (s : State) (f : Nat) : (s.setFrame f).d = s.d := rfl
@[simp] theorem State.setFrame_w (s : State) (f : Nat) : (s.setFrame f).w = s.w := rfl
@[simp] theorem State.setFrame_seq (s : State) (f : Nat) : (s.setFrame f).seq = { s.seq with frame := f } := rfl
@[simp] theorem State.setFrame_pcm (s : State) (f : Nat) : (s.setFrame f).pcm = s.pcm := rfl
@[simp] theorem State.setFrame_bs (s : State) (f : Nat) : (s.setFrame f).bs = s.bs := rfl
@[simp] theorem State.setFrame_port (s : State) (f : Nat) : (s.setFrame f).port = s.port := rfl
@[simp] theorem State.setFrame_host (s : State) (f : Nat) : (s.setFrame f).host = s.host := rfl
@[simp] theorem State.setFrame_freeCount (s : State) (f : Nat) : (s.setFrame f).freeCount = s.freeCount := rfl

@[simp] theorem State.setRegion_build (s : State) (r : Nat) : (s.setRegion r).build = s.build := rfl
@[simp] theorem State.setRegion_arg0 (s : State) (r : Nat) : (s.setRegion r).arg0 = s.arg0 := rfl
@[simp] theorem State.setRegion_arg1 (s : State) (r : Nat) : (s.setRegion r).arg1 = s.arg1 := rfl
@[simp] theorem State.setRegion_cmdErr (s : State) (r : Nat) : (s.setRegion r).cmdErr = s.cmdErr := rfl
@[simp] theorem State.setRegion_ferrAny (s : State) (r : Nat) : (s.setRegion r).ferrAny = s.ferrAny := rfl
@[simp] theorem State.setRegion_result (s : State) (r : Nat) : (s.setRegion r).result = s.result := rfl
@[simp] theorem State.setRegion_errInfo (s : State) (r : Nat) : (s.setRegion r).errInfo = s.errInfo := rfl
@[simp] theorem State.setRegion_e (s : State) (r : Nat) : (s.setRegion r).e = s.e := rfl
@[simp] theorem State.setRegion_d (s : State) (r : Nat) : (s.setRegion r).d = s.d := rfl
@[simp] theorem State.setRegion_w (s : State) (r : Nat) : (s.setRegion r).w = s.w := rfl
@[simp] theorem State.setRegion_seq (s : State) (r : Nat) : (s.setRegion r).seq = { s.seq with region := Fin.ofNat 28 r } := rfl
@[simp] theorem State.setRegion_pcm (s : State) (r : Nat) : (s.setRegion r).pcm = s.pcm := rfl
@[simp] theorem State.setRegion_bs (s : State) (r : Nat) : (s.setRegion r).bs = s.bs := rfl
@[simp] theorem State.setRegion_port (s : State) (r : Nat) : (s.setRegion r).port = s.port := rfl
@[simp] theorem State.setRegion_host (s : State) (r : Nat) : (s.setRegion r).host = s.host := rfl
@[simp] theorem State.setRegion_freeCount (s : State) (r : Nat) : (s.setRegion r).freeCount = s.freeCount := rfl

@[simp] theorem State.afterPut_build (s : State) (p : BitWriter × List Host.Cell) : (s.afterPut p).build = s.build := rfl
@[simp] theorem State.afterPut_arg0 (s : State) (p : BitWriter × List Host.Cell) : (s.afterPut p).arg0 = s.arg0 := rfl
@[simp] theorem State.afterPut_arg1 (s : State) (p : BitWriter × List Host.Cell) : (s.afterPut p).arg1 = s.arg1 := rfl
@[simp] theorem State.afterPut_cmdErr (s : State) (p : BitWriter × List Host.Cell) : (s.afterPut p).cmdErr = s.cmdErr := rfl
@[simp] theorem State.afterPut_ferrAny (s : State) (p : BitWriter × List Host.Cell) : (s.afterPut p).ferrAny = s.ferrAny := rfl
@[simp] theorem State.afterPut_result (s : State) (p : BitWriter × List Host.Cell) : (s.afterPut p).result = s.result := rfl
@[simp] theorem State.afterPut_errInfo (s : State) (p : BitWriter × List Host.Cell) : (s.afterPut p).errInfo = s.errInfo := rfl
@[simp] theorem State.afterPut_e (s : State) (p : BitWriter × List Host.Cell) : (s.afterPut p).e = { s.e with bw := p.1 } := rfl
@[simp] theorem State.afterPut_d (s : State) (p : BitWriter × List Host.Cell) : (s.afterPut p).d = s.d := rfl
@[simp] theorem State.afterPut_w (s : State) (p : BitWriter × List Host.Cell) : (s.afterPut p).w = s.w := rfl
@[simp] theorem State.afterPut_seq (s : State) (p : BitWriter × List Host.Cell) : (s.afterPut p).seq = s.seq := rfl
@[simp] theorem State.afterPut_pcm (s : State) (p : BitWriter × List Host.Cell) : (s.afterPut p).pcm = s.pcm := rfl
@[simp] theorem State.afterPut_bs (s : State) (p : BitWriter × List Host.Cell) : (s.afterPut p).bs = p.2 := rfl
@[simp] theorem State.afterPut_port (s : State) (p : BitWriter × List Host.Cell) : (s.afterPut p).port = s.port := rfl
@[simp] theorem State.afterPut_host (s : State) (p : BitWriter × List Host.Cell) : (s.afterPut p).host = s.host := rfl
@[simp] theorem State.afterPut_freeCount (s : State) (p : BitWriter × List Host.Cell) : (s.afterPut p).freeCount = s.freeCount := rfl

@[simp] theorem commandError_build (err : CmdErr) (s : State) : (commandError err s).build = s.build := rfl
@[simp] theorem commandError_arg0 (err : CmdErr) (s : State) : (commandError err s).arg0 = s.arg0 := rfl
@[simp] theorem commandError_arg1 (err : CmdErr) (s : State) : (commandError err s).arg1 = s.arg1 := rfl
@[simp] theorem commandError_cmdErr (err : CmdErr) (s : State) : (commandError err s).cmdErr = err := rfl
@[simp] theorem commandError_ferrAny (err : CmdErr) (s : State) : (commandError err s).ferrAny = s.ferrAny := rfl
@[simp] theorem commandError_result (err : CmdErr) (s : State) : (commandError err s).result = 0#32 := rfl
@[simp] theorem commandError_errInfo (err : CmdErr) (s : State) : (commandError err s).errInfo = s.errInfo := rfl
@[simp] theorem commandError_e (err : CmdErr) (s : State) : (commandError err s).e = s.e := rfl
@[simp] theorem commandError_d (err : CmdErr) (s : State) : (commandError err s).d = s.d := rfl
@[simp] theorem commandError_w (err : CmdErr) (s : State) : (commandError err s).w = s.w := rfl
@[simp] theorem commandError_seq (err : CmdErr) (s : State) : (commandError err s).seq = { s.seq with phase := 0x00#8 } := rfl
@[simp] theorem commandError_pcm (err : CmdErr) (s : State) : (commandError err s).pcm = s.pcm := rfl
@[simp] theorem commandError_bs (err : CmdErr) (s : State) : (commandError err s).bs = s.bs := rfl
@[simp] theorem commandError_port (err : CmdErr) (s : State) : (commandError err s).port = s.port := rfl
@[simp] theorem commandError_host (err : CmdErr) (s : State) : (commandError err s).host = s.host := rfl
@[simp] theorem commandError_freeCount (err : CmdErr) (s : State) : (commandError err s).freeCount = s.freeCount := rfl

@[simp] theorem complete_build (n : Nat) (s : State) : (complete n s).build = s.build := rfl
@[simp] theorem complete_arg0 (n : Nat) (s : State) : (complete n s).arg0 = s.arg0 := rfl
@[simp] theorem complete_arg1 (n : Nat) (s : State) : (complete n s).arg1 = s.arg1 := rfl
@[simp] theorem complete_cmdErr (n : Nat) (s : State) : (complete n s).cmdErr = .ok := rfl
@[simp] theorem complete_ferrAny (n : Nat) (s : State) : (complete n s).ferrAny = s.ferrAny := rfl
@[simp] theorem complete_result (n : Nat) (s : State) : (complete n s).result = BitVec.ofNat 32 n := rfl
@[simp] theorem complete_errInfo (n : Nat) (s : State) : (complete n s).errInfo = s.errInfo := rfl
@[simp] theorem complete_e (n : Nat) (s : State) : (complete n s).e = s.e := rfl
@[simp] theorem complete_d (n : Nat) (s : State) : (complete n s).d = s.d := rfl
@[simp] theorem complete_w (n : Nat) (s : State) : (complete n s).w = s.w := rfl
@[simp] theorem complete_seq (n : Nat) (s : State) : (complete n s).seq = { s.seq with phase := 0x00#8 } := rfl
@[simp] theorem complete_pcm (n : Nat) (s : State) : (complete n s).pcm = s.pcm := rfl
@[simp] theorem complete_bs (n : Nat) (s : State) : (complete n s).bs = s.bs := rfl
@[simp] theorem complete_port (n : Nat) (s : State) : (complete n s).port = s.port := rfl
@[simp] theorem complete_host (n : Nat) (s : State) : (complete n s).host = s.host := rfl
@[simp] theorem complete_freeCount (n : Nat) (s : State) : (complete n s).freeCount = s.freeCount := rfl

@[simp] theorem beginCommand_build (c : Word) (n : Nat) (s : State) : (beginCommand c n s).build = s.build := rfl
@[simp] theorem beginCommand_arg0 (c : Word) (n : Nat) (s : State) : (beginCommand c n s).arg0 = s.arg0 := rfl
@[simp] theorem beginCommand_arg1 (c : Word) (n : Nat) (s : State) : (beginCommand c n s).arg1 = s.arg1 := rfl
@[simp] theorem beginCommand_cmdErr (c : Word) (n : Nat) (s : State) : (beginCommand c n s).cmdErr = s.cmdErr := rfl
@[simp] theorem beginCommand_ferrAny (c : Word) (n : Nat) (s : State) : (beginCommand c n s).ferrAny = s.ferrAny := rfl
@[simp] theorem beginCommand_result (c : Word) (n : Nat) (s : State) : (beginCommand c n s).result = s.result := rfl
@[simp] theorem beginCommand_errInfo (c : Word) (n : Nat) (s : State) : (beginCommand c n s).errInfo = s.errInfo := rfl
@[simp] theorem beginCommand_e (c : Word) (n : Nat) (s : State) : (beginCommand c n s).e = s.e := rfl
@[simp] theorem beginCommand_d (c : Word) (n : Nat) (s : State) : (beginCommand c n s).d = s.d := rfl
@[simp] theorem beginCommand_w (c : Word) (n : Nat) (s : State) : (beginCommand c n s).w = s.w := rfl
@[simp] theorem beginCommand_seq (c : Word) (n : Nat) (s : State) : (beginCommand c n s).seq = { s.seq with cmd := c, nframes := n } := rfl
@[simp] theorem beginCommand_pcm (c : Word) (n : Nat) (s : State) : (beginCommand c n s).pcm = s.pcm := rfl
@[simp] theorem beginCommand_bs (c : Word) (n : Nat) (s : State) : (beginCommand c n s).bs = s.bs := rfl
@[simp] theorem beginCommand_port (c : Word) (n : Nat) (s : State) : (beginCommand c n s).port = s.port := rfl
@[simp] theorem beginCommand_host (c : Word) (n : Nat) (s : State) : (beginCommand c n s).host = s.host := rfl
@[simp] theorem beginCommand_freeCount (c : Word) (n : Nat) (s : State) : (beginCommand c n s).freeCount = s.freeCount := rfl

@[simp] theorem encAvail_build (s : State) : (encAvail s).build = s.build := rfl
@[simp] theorem encAvail_arg0 (s : State) : (encAvail s).arg0 = s.arg0 := rfl
@[simp] theorem encAvail_arg1 (s : State) : (encAvail s).arg1 = s.arg1 := rfl
@[simp] theorem encAvail_cmdErr (s : State) : (encAvail s).cmdErr = s.cmdErr := rfl
@[simp] theorem encAvail_ferrAny (s : State) : (encAvail s).ferrAny = s.ferrAny := rfl
@[simp] theorem encAvail_result (s : State) : (encAvail s).result = s.result := rfl
@[simp] theorem encAvail_errInfo (s : State) : (encAvail s).errInfo = s.errInfo := rfl
@[simp] theorem encAvail_e (s : State) : (encAvail s).e = s.e := rfl
@[simp] theorem encAvail_d (s : State) : (encAvail s).d = s.d := rfl
@[simp] theorem encAvail_w (s : State) : (encAvail s).w = { s.w with avail := (encBpf s : Int) - s.w.envbits - s.e.mode.ccbits } := rfl
@[simp] theorem encAvail_seq (s : State) : (encAvail s).seq = s.seq := rfl
@[simp] theorem encAvail_pcm (s : State) : (encAvail s).pcm = s.pcm := rfl
@[simp] theorem encAvail_bs (s : State) : (encAvail s).bs = s.bs := rfl
@[simp] theorem encAvail_port (s : State) : (encAvail s).port = s.port := rfl
@[simp] theorem encAvail_host (s : State) : (encAvail s).host = s.host := rfl
@[simp] theorem encAvail_freeCount (s : State) : (encAvail s).freeCount = s.freeCount := rfl

@[simp] theorem decAvail_build (s : State) : (decAvail s).build = s.build := rfl
@[simp] theorem decAvail_arg0 (s : State) : (decAvail s).arg0 = s.arg0 := rfl
@[simp] theorem decAvail_arg1 (s : State) : (decAvail s).arg1 = s.arg1 := rfl
@[simp] theorem decAvail_cmdErr (s : State) : (decAvail s).cmdErr = s.cmdErr := rfl
@[simp] theorem decAvail_ferrAny (s : State) : (decAvail s).ferrAny = s.ferrAny := rfl
@[simp] theorem decAvail_result (s : State) : (decAvail s).result = s.result := rfl
@[simp] theorem decAvail_errInfo (s : State) : (decAvail s).errInfo = s.errInfo := rfl
@[simp] theorem decAvail_e (s : State) : (decAvail s).e = s.e := rfl
@[simp] theorem decAvail_d (s : State) : (decAvail s).d = s.d := rfl
@[simp] theorem decAvail_w (s : State) : (decAvail s).w = { s.w with avail := s.d.br.rem } := rfl
@[simp] theorem decAvail_seq (s : State) : (decAvail s).seq = s.seq := rfl
@[simp] theorem decAvail_pcm (s : State) : (decAvail s).pcm = s.pcm := rfl
@[simp] theorem decAvail_bs (s : State) : (decAvail s).bs = s.bs := rfl
@[simp] theorem decAvail_port (s : State) : (decAvail s).port = s.port := rfl
@[simp] theorem decAvail_host (s : State) : (decAvail s).host = s.host := rfl
@[simp] theorem decAvail_freeCount (s : State) : (decAvail s).freeCount = s.freeCount := rfl

@[simp] theorem decodeFrameStart_build (s : State) : (decodeFrameStart s).build = s.build := rfl
@[simp] theorem decodeFrameStart_arg0 (s : State) : (decodeFrameStart s).arg0 = s.arg0 := rfl
@[simp] theorem decodeFrameStart_arg1 (s : State) : (decodeFrameStart s).arg1 = s.arg1 := rfl
@[simp] theorem decodeFrameStart_cmdErr (s : State) : (decodeFrameStart s).cmdErr = s.cmdErr := rfl
@[simp] theorem decodeFrameStart_ferrAny (s : State) : (decodeFrameStart s).ferrAny = s.ferrAny := rfl
@[simp] theorem decodeFrameStart_result (s : State) : (decodeFrameStart s).result = s.result := rfl
@[simp] theorem decodeFrameStart_errInfo (s : State) : (decodeFrameStart s).errInfo = s.errInfo := rfl
@[simp] theorem decodeFrameStart_e (s : State) : (decodeFrameStart s).e = s.e := rfl
@[simp] theorem decodeFrameStart_d (s : State) : (decodeFrameStart s).d = s.d := rfl
@[simp] theorem decodeFrameStart_w (s : State) : (decodeFrameStart s).w = { s.w with ferr := 0#4, underrun := false, coef := zeroCoef s, randsnap := s.d.rand } := rfl
@[simp] theorem decodeFrameStart_seq (s : State) : (decodeFrameStart s).seq = s.seq := rfl
@[simp] theorem decodeFrameStart_pcm (s : State) : (decodeFrameStart s).pcm = s.pcm := rfl
@[simp] theorem decodeFrameStart_bs (s : State) : (decodeFrameStart s).bs = s.bs := rfl
@[simp] theorem decodeFrameStart_port (s : State) : (decodeFrameStart s).port = s.port := rfl
@[simp] theorem decodeFrameStart_host (s : State) : (decodeFrameStart s).host = s.host := rfl
@[simp] theorem decodeFrameStart_freeCount (s : State) : (decodeFrameStart s).freeCount = s.freeCount := rfl

@[simp] theorem fillFrameStart_build (s : State) : (fillFrameStart s).build = s.build := rfl
@[simp] theorem fillFrameStart_arg0 (s : State) : (fillFrameStart s).arg0 = s.arg0 := rfl
@[simp] theorem fillFrameStart_arg1 (s : State) : (fillFrameStart s).arg1 = s.arg1 := rfl
@[simp] theorem fillFrameStart_cmdErr (s : State) : (fillFrameStart s).cmdErr = s.cmdErr := rfl
@[simp] theorem fillFrameStart_ferrAny (s : State) : (fillFrameStart s).ferrAny = s.ferrAny := rfl
@[simp] theorem fillFrameStart_result (s : State) : (fillFrameStart s).result = s.result := rfl
@[simp] theorem fillFrameStart_errInfo (s : State) : (fillFrameStart s).errInfo = s.errInfo := rfl
@[simp] theorem fillFrameStart_e (s : State) : (fillFrameStart s).e = s.e := rfl
@[simp] theorem fillFrameStart_d (s : State) : (fillFrameStart s).d = s.d := rfl
@[simp] theorem fillFrameStart_w (s : State) : (fillFrameStart s).w = { s.w with
    ferr := ferrErased, underrun := false, coef := zeroCoef s, magsh := 0#16, randsnap := s.d.rand } := rfl
@[simp] theorem fillFrameStart_seq (s : State) : (fillFrameStart s).seq = s.seq := rfl
@[simp] theorem fillFrameStart_pcm (s : State) : (fillFrameStart s).pcm = s.pcm := rfl
@[simp] theorem fillFrameStart_bs (s : State) : (fillFrameStart s).bs = s.bs := rfl
@[simp] theorem fillFrameStart_port (s : State) : (fillFrameStart s).port = s.port := rfl
@[simp] theorem fillFrameStart_host (s : State) : (fillFrameStart s).host = s.host := rfl
@[simp] theorem fillFrameStart_freeCount (s : State) : (fillFrameStart s).freeCount = s.freeCount := rfl

@[simp] theorem frameEnd_build (s : State) : (frameEnd s).build = s.build := rfl
@[simp] theorem frameEnd_arg0 (s : State) : (frameEnd s).arg0 = s.arg0 := rfl
@[simp] theorem frameEnd_arg1 (s : State) : (frameEnd s).arg1 = s.arg1 := rfl
@[simp] theorem frameEnd_cmdErr (s : State) : (frameEnd s).cmdErr = s.cmdErr := rfl
@[simp] theorem frameEnd_ferrAny (s : State) : (frameEnd s).ferrAny = s.ferrAny := rfl
@[simp] theorem frameEnd_result (s : State) : (frameEnd s).result = s.result := rfl
@[simp] theorem frameEnd_errInfo (s : State) : (frameEnd s).errInfo = s.errInfo := rfl
@[simp] theorem frameEnd_e (s : State) : (frameEnd s).e = s.e := rfl
@[simp] theorem frameEnd_d (s : State) : (frameEnd s).d = s.d := rfl
@[simp] theorem frameEnd_w (s : State) : (frameEnd s).w = s.w := rfl
@[simp] theorem frameEnd_seq (s : State) : (frameEnd s).seq = recordFrame s.w.ferr s.seq := rfl
@[simp] theorem frameEnd_pcm (s : State) : (frameEnd s).pcm = s.pcm := rfl
@[simp] theorem frameEnd_bs (s : State) : (frameEnd s).bs = s.bs := rfl
@[simp] theorem frameEnd_port (s : State) : (frameEnd s).port = s.port := rfl
@[simp] theorem frameEnd_host (s : State) : (frameEnd s).host = s.host := rfl
@[simp] theorem frameEnd_freeCount (s : State) : (frameEnd s).freeCount = s.freeCount := rfl

@[simp] theorem clearRecord_build (s : State) : (clearRecord s).build = s.build := rfl
@[simp] theorem clearRecord_arg0 (s : State) : (clearRecord s).arg0 = s.arg0 := rfl
@[simp] theorem clearRecord_arg1 (s : State) : (clearRecord s).arg1 = s.arg1 := rfl
@[simp] theorem clearRecord_cmdErr (s : State) : (clearRecord s).cmdErr = s.cmdErr := rfl
@[simp] theorem clearRecord_ferrAny (s : State) : (clearRecord s).ferrAny = s.ferrAny := rfl
@[simp] theorem clearRecord_result (s : State) : (clearRecord s).result = s.result := rfl
@[simp] theorem clearRecord_errInfo (s : State) : (clearRecord s).errInfo = s.errInfo := rfl
@[simp] theorem clearRecord_e (s : State) : (clearRecord s).e = s.e := rfl
@[simp] theorem clearRecord_d (s : State) : (clearRecord s).d = s.d := rfl
@[simp] theorem clearRecord_w (s : State) : (clearRecord s).w = s.w := rfl
@[simp] theorem clearRecord_seq (s : State) : (clearRecord s).seq = { s.seq with last := 0#4, orf := 0#4, nconc := 0#16 } := rfl
@[simp] theorem clearRecord_pcm (s : State) : (clearRecord s).pcm = s.pcm := rfl
@[simp] theorem clearRecord_bs (s : State) : (clearRecord s).bs = s.bs := rfl
@[simp] theorem clearRecord_port (s : State) : (clearRecord s).port = s.port := rfl
@[simp] theorem clearRecord_host (s : State) : (clearRecord s).host = s.host := rfl
@[simp] theorem clearRecord_freeCount (s : State) : (clearRecord s).freeCount = s.freeCount := rfl

@[simp] theorem takeAccess_build (s : State) : (takeAccess s).build = s.build := rfl
@[simp] theorem takeAccess_arg0 (s : State) : (takeAccess s).arg0 = s.arg0 := rfl
@[simp] theorem takeAccess_arg1 (s : State) : (takeAccess s).arg1 = s.arg1 := rfl
@[simp] theorem takeAccess_cmdErr (s : State) : (takeAccess s).cmdErr = s.cmdErr := rfl
@[simp] theorem takeAccess_ferrAny (s : State) : (takeAccess s).ferrAny = s.ferrAny := rfl
@[simp] theorem takeAccess_result (s : State) : (takeAccess s).result = s.result := rfl
@[simp] theorem takeAccess_errInfo (s : State) : (takeAccess s).errInfo = s.errInfo := rfl
@[simp] theorem takeAccess_e (s : State) : (takeAccess s).e = s.e := rfl
@[simp] theorem takeAccess_d (s : State) : (takeAccess s).d = s.d := rfl
@[simp] theorem takeAccess_w (s : State) : (takeAccess s).w = s.w := rfl
@[simp] theorem takeAccess_seq (s : State) : (takeAccess s).seq = s.seq := rfl
@[simp] theorem takeAccess_pcm (s : State) : (takeAccess s).pcm = s.pcm := rfl
@[simp] theorem takeAccess_bs (s : State) : (takeAccess s).bs = s.bs := rfl
@[simp] theorem takeAccess_port (s : State) : (takeAccess s).port = s.port := rfl
@[simp] theorem takeAccess_host (s : State) : (takeAccess s).host = { s.host with pending := s.host.pending.tail } := rfl
@[simp] theorem takeAccess_freeCount (s : State) : (takeAccess s).freeCount = s.freeCount := rfl

@[simp] theorem takeCommand_build (c : Word) (s : State) : (takeCommand c s).build = s.build := rfl
@[simp] theorem takeCommand_arg0 (c : Word) (s : State) : (takeCommand c s).arg0 = s.arg0 := rfl
@[simp] theorem takeCommand_arg1 (c : Word) (s : State) : (takeCommand c s).arg1 = s.arg1 := rfl
@[simp] theorem takeCommand_cmdErr (c : Word) (s : State) : (takeCommand c s).cmdErr = s.cmdErr := rfl
@[simp] theorem takeCommand_ferrAny (c : Word) (s : State) : (takeCommand c s).ferrAny = s.ferrAny := rfl
@[simp] theorem takeCommand_result (c : Word) (s : State) : (takeCommand c s).result = s.result := rfl
@[simp] theorem takeCommand_errInfo (c : Word) (s : State) : (takeCommand c s).errInfo = s.errInfo := rfl
@[simp] theorem takeCommand_e (c : Word) (s : State) : (takeCommand c s).e = s.e := rfl
@[simp] theorem takeCommand_d (c : Word) (s : State) : (takeCommand c s).d = s.d := rfl
@[simp] theorem takeCommand_w (c : Word) (s : State) : (takeCommand c s).w = s.w := rfl
@[simp] theorem takeCommand_seq (c : Word) (s : State) : (takeCommand c s).seq = s.seq := rfl
@[simp] theorem takeCommand_pcm (c : Word) (s : State) : (takeCommand c s).pcm = s.pcm := rfl
@[simp] theorem takeCommand_bs (c : Word) (s : State) : (takeCommand c s).bs = s.bs := rfl
@[simp] theorem takeCommand_port (c : Word) (s : State) : (takeCommand c s).port = s.port := rfl
@[simp] theorem takeCommand_host (c : Word) (s : State) : (takeCommand c s).host = { s.host with pending := s.host.pending.tail, cmdWord := c } := rfl
@[simp] theorem takeCommand_freeCount (c : Word) (s : State) : (takeCommand c s).freeCount = s.freeCount := rfl

@[simp] theorem hostReads_build (v : Word) (s : State) : (hostReads v s).build = s.build := rfl
@[simp] theorem hostReads_arg0 (v : Word) (s : State) : (hostReads v s).arg0 = s.arg0 := rfl
@[simp] theorem hostReads_arg1 (v : Word) (s : State) : (hostReads v s).arg1 = s.arg1 := rfl
@[simp] theorem hostReads_cmdErr (v : Word) (s : State) : (hostReads v s).cmdErr = s.cmdErr := rfl
@[simp] theorem hostReads_ferrAny (v : Word) (s : State) : (hostReads v s).ferrAny = s.ferrAny := rfl
@[simp] theorem hostReads_result (v : Word) (s : State) : (hostReads v s).result = s.result := rfl
@[simp] theorem hostReads_errInfo (v : Word) (s : State) : (hostReads v s).errInfo = s.errInfo := rfl
@[simp] theorem hostReads_e (v : Word) (s : State) : (hostReads v s).e = s.e := rfl
@[simp] theorem hostReads_d (v : Word) (s : State) : (hostReads v s).d = s.d := rfl
@[simp] theorem hostReads_w (v : Word) (s : State) : (hostReads v s).w = s.w := rfl
@[simp] theorem hostReads_seq (v : Word) (s : State) : (hostReads v s).seq = s.seq := rfl
@[simp] theorem hostReads_pcm (v : Word) (s : State) : (hostReads v s).pcm = s.pcm := rfl
@[simp] theorem hostReads_bs (v : Word) (s : State) : (hostReads v s).bs = s.bs := rfl
@[simp] theorem hostReads_port (v : Word) (s : State) : (hostReads v s).port = s.port := rfl
@[simp] theorem hostReads_host (v : Word) (s : State) : (hostReads v s).host = { s.host with readData := v } := rfl
@[simp] theorem hostReads_freeCount (v : Word) (s : State) : (hostReads v s).freeCount = s.freeCount := rfl

@[simp] theorem enterConceal_build (s : State) : (enterConceal s).build = s.build := rfl
@[simp] theorem enterConceal_arg0 (s : State) : (enterConceal s).arg0 = s.arg0 := rfl
@[simp] theorem enterConceal_arg1 (s : State) : (enterConceal s).arg1 = s.arg1 := rfl
@[simp] theorem enterConceal_cmdErr (s : State) : (enterConceal s).cmdErr = s.cmdErr := rfl
@[simp] theorem enterConceal_ferrAny (s : State) : (enterConceal s).ferrAny = s.ferrAny := rfl
@[simp] theorem enterConceal_result (s : State) : (enterConceal s).result = s.result := rfl
@[simp] theorem enterConceal_errInfo (s : State) : (enterConceal s).errInfo = s.errInfo := rfl
@[simp] theorem enterConceal_e (s : State) : (enterConceal s).e = s.e := rfl
@[simp] theorem enterConceal_seq (s : State) : (enterConceal s).seq = s.seq := rfl
@[simp] theorem enterConceal_pcm (s : State) : (enterConceal s).pcm = s.pcm := rfl
@[simp] theorem enterConceal_bs (s : State) : (enterConceal s).bs = s.bs := rfl
@[simp] theorem enterConceal_port (s : State) : (enterConceal s).port = s.port := rfl
@[simp] theorem enterConceal_host (s : State) : (enterConceal s).host = s.host := rfl
@[simp] theorem enterConceal_freeCount (s : State) : (enterConceal s).freeCount = s.freeCount := rfl

end Sys2Proof.Machine
end

