-- ==== Sys2Proof/Laws/Ops.lean ====
section
/-! SUPPORT. What sequencing, the command checks and command errors can do, once each. -/

namespace Sys2Proof.Machine

/-! ## Sequencing -/

@[simp] theorem thenDo_next (s : State) (f : State → Result) : thenDo (.next s) f = f s := rfl

@[simp] theorem thenDo_fault (r : Fault) (f : State → Result) : thenDo (.fault r) f = .fault r := rfl

@[simp] theorem thenDo_refused (r : Refusal) (f : State → Result) :
    thenDo (.refused r) f = .refused r := rfl

/-- A sequence answers a next state when both parts do. -/
theorem thenDo_eq_next {o : Result} {f : State → Result} {t : State} :
    thenDo o f = .next t ↔ ∃ u, o = .next u ∧ f u = .next t := by
  cases o <;> simp [thenDo]

theorem thenDo_assoc (o : Result) (f g : State → Result) :
    thenDo (thenDo o f) g = thenDo o fun s => thenDo (f s) g := by
  cases o <;> rfl

@[simp] theorem runAll_nil (s : State) : runAll [] s = .next s := rfl

@[simp] theorem runAll_cons (m : State → Result) (ms : List (State → Result)) (s : State) :
    runAll (m :: ms) s = thenDo (m s) (runAll ms) := rfl

theorem runAll_append (ms ks : List (State → Result)) (s : State) :
    runAll (ms ++ ks) s = thenDo (runAll ms s) (runAll ks) := by
  induction ms generalizing s with
  | nil => rfl
  | cons m ms ih =>
    simp only [List.cons_append, runAll_cons, thenDo_assoc]
    congr 1
    funext t
    exact ih t

@[simp] theorem uop_eq (i : Instr) (m : State → Result) (s : State) :
    uop i m s = m (s.setPhase (phaseOf i)) := rfl

@[simp] theorem act_eq (f : State → State) (s : State) : act f s = .next (f s) := rfl

/-- A property that every part of a list keeps, the whole list keeps. -/
theorem runAll_keeps {P : State → Prop} {ms : List (State → Result)}
    (h : ∀ m ∈ ms, ∀ s t, P s → m s = .next t → P t) {s t : State} (hs : P s)
    (ht : runAll ms s = .next t) : P t := by
  induction ms generalizing s with
  | nil => cases ht; exact hs
  | cons m ms ih =>
    obtain ⟨u, h1, h2⟩ := thenDo_eq_next.mp ht
    exact ih (fun k hk => h k (List.mem_cons_of_mem _ hk)) (h m (by simp) s u hs h1) h2

/-- A property that a frame and `SEQ.FRAME` keep, the frame loop keeps. -/
theorem frameLoop_keeps {P : State → Prop} {frame : State → Result}
    (hf : ∀ s f, P s → P (s.setFrame f)) (h : ∀ s t, P s → frame s = .next t → P t) (k f : Nat)
    {s t : State} (hs : P s) (ht : frameLoop frame k f s = .next t) : P t := by
  induction k generalizing f s with
  | zero => cases ht; exact hs
  | succ k ih =>
    obtain ⟨u, h1, h2⟩ := thenDo_eq_next.mp ht
    exact ih (f + 1) (h _ u (hf s f hs) h1) h2

/-- A property that `VQ_DEC`, `NOISE_FILL`, `SEQ.PHASE` and `SEQ.REGION` keep, the region loop keeps. -/
theorem decodeRegions_keeps {P : State → Prop} (hp : ∀ s c, P s → P (s.setPhase c))
    (hr : ∀ s r, P s → P (s.setRegion r)) (hv : ∀ s t, P s → execVqDec s = .next t → P t)
    (hn : ∀ s t, P s → execNoiseFill s = .next t → P t) (k r : Nat) {s t : State} (hs : P s)
    (ht : decodeRegions k r s = .next t) : P t := by
  induction k generalizing r s with
  | zero => cases ht; exact hs
  | succ k ih =>
    obtain ⟨u, h1, h2⟩ := thenDo_eq_next.mp ht
    obtain ⟨v, h3, h4⟩ := thenDo_eq_next.mp h2
    exact ih (r + 1) (hn _ v (hp _ _ (hv _ u (hp _ _ (hr _ _ hs)) h1)) h3) h4

/-! ## Command checks -/

/-- The word of a well-formed command decodes to it. -/
theorem decodeCommand_wordOf {i : Instr} (hc : i.isCommand = true) (hw : i.wellFormed = true) :
    decodeCommand (wordOf i) = .ok i := by
  cases i with
  | init side => cases side <;> rfl
  | setRate side => cases side <;> rfl
  | release side => cases side <;> rfl
  | encode side => cases side <;> first | rfl | cases hw
  | decode side => cases side <;> first | rfl | cases hw
  | fillIn side => cases side <;> first | rfl | cases hw
  | _ => cases hc

/-- The word of a command on a side it does not have decodes to nothing. -/
theorem decodeCommand_illegalSide {i : Instr} (hc : i.isCommand = true) (hw : i.wellFormed = false) :
    ∃ e, decodeCommand (wordOf i) = .error e := by
  cases i with
  | init side => cases hw
  | setRate side => cases hw
  | release side => cases hw
  | encode side => cases side <;> first | exact ⟨_, rfl⟩ | cases hw
  | decode side => cases side <;> first | exact ⟨_, rfl⟩ | cases hw
  | fillIn side => cases side <;> first | exact ⟨_, rfl⟩ | cases hw
  | _ => cases hc

/-- Everything `CMD_CHECK`'s checks can answer (47_frame_commands.md R360). -/
theorem checkCommand_cases (c : Word) (s : State) :
    (∃ e, decodeCommand c = .error e ∧ checkCommand c s = .error .illCmd) ∨
    (∃ i, decodeCommand c = .ok i ∧
      (((needsContext i).any (fun side => !validOf s side) = true ∧ checkCommand c s = .error .noCtx) ∨
       ((needsContext i).any (fun side => !validOf s side) = false ∧ configLegal i s = false ∧
         checkCommand c s = .error .cfgErr) ∨
       ((needsContext i).any (fun side => !validOf s side) = false ∧ configLegal i s = true ∧
         nframesOf i s > s.build.maxFrames ∧ checkCommand c s = .error .bufErr) ∨
       ((needsContext i).any (fun side => !validOf s side) = false ∧ configLegal i s = true ∧
         nframesOf i s ≤ s.build.maxFrames ∧ checkCommand c s = .ok (i, nframesOf i s)))) := by
  cases hd : decodeCommand c with
  | error e => exact .inl ⟨e, rfl, by simp [checkCommand, hd]⟩
  | ok i =>
    refine .inr ⟨i, rfl, ?_⟩
    cases hn : (needsContext i).any fun side => !validOf s side
    · cases hl : configLegal i s
      · exact .inr (.inl ⟨rfl, rfl, by simp [checkCommand, hd, hn, hl]⟩)
      · by_cases hb : nframesOf i s > s.build.maxFrames
        · exact .inr (.inr (.inl ⟨rfl, rfl, hb, by simp [checkCommand, hd, hn, hl, hb]⟩))
        · exact .inr (.inr (.inr ⟨rfl, rfl, Nat.not_lt.mp hb, by
            simp [checkCommand, hd, hn, hl, hb]⟩))
    · exact .inl ⟨rfl, by simp [checkCommand, hd, hn]⟩

/-- A command whose checks pass runs its body. -/
theorem runCommand_ok {c : Word} {body : State → Result} {s : State} {i : Instr} {n : Nat}
    (h : checkCommand c s = .ok (i, n)) : runCommand c body s = body (beginCommand c n s) := by
  simp [runCommand, h]

/-- A command with a failing check takes the command error. -/
theorem runCommand_error {c : Word} {body : State → Result} {s : State} {err : CmdErr}
    (h : checkCommand c s = .error err) : runCommand c body s = .next (commandError err s) := by
  simp [runCommand, h]

/-- Everything a command can do. -/
theorem runCommand_cases (c : Word) (body : State → Result) (s : State) :
    (∃ err, checkCommand c s = .error err ∧ runCommand c body s = .next (commandError err s)) ∨
    (∃ i n, checkCommand c s = .ok (i, n) ∧ runCommand c body s = body (beginCommand c n s)) := by
  cases h : checkCommand c s with
  | error err => exact .inl ⟨err, rfl, runCommand_error h⟩
  | ok p => exact .inr ⟨p.1, p.2, rfl, runCommand_ok h⟩

/-! ## Signal registers -/

theorem SigReg.put_fixed {n : Nat} (r : SigReg n) (fx : Vector I16 n) (fl : Vector FVal n) :
    r.put .fixed fx fl = { r with fx := fx } := rfl

theorem SigReg.put_float {n : Nat} (r : SigReg n) (fx : Vector I16 n) (fl : Vector FVal n) :
    r.put .float fx fl = { r with fl := fl } := rfl

theorem SigReg.put_fx {n : Nat} (r : SigReg n) (b : Backend) (fx : Vector I16 n)
    (fl : Vector FVal n) : (r.put b fx fl).fx = if b = .fixed then fx else r.fx := by
  cases b <;> rfl

theorem SigReg.put_fl {n : Nat} (r : SigReg n) (b : Backend) (fx : Vector I16 n)
    (fl : Vector FVal n) : (r.put b fx fl).fl = if b = .float then fl else r.fl := by
  cases b <;> rfl

end Sys2Proof.Machine
end

