-- ==== Sys2Proof/Laws/PerInstr.lean ====
section
/-! SUPPORT. The per-instruction family `TableRow`: the encoder gives every instruction the word of its row
of spec/opcode_table.json. -/

namespace Sys2Proof.Laws.TableRow

open Sys2Proof

/-- The row of an instruction in the opcode table: how many bits, mask and match (30_encoding.md R102,
R104). The table's rows of `ENCODE`, `DECODE` and `FILL_IN` fix the `SIDE` bit; an instruction of another
side has no row. -/
def row : Instr → Nat × Nat × Nat
  | .init _ => (32, 0xFF7FFFFF, 0x01000000)
  | .setRate _ => (32, 0xFF7FFFFF, 0x02000000)
  | .encode _ => (32, 0xFFFFFFFF, 0x03000000)
  | .decode _ => (32, 0xFFFFFFFF, 0x04800000)
  | .fillIn _ => (32, 0xFFFFFFFF, 0x05800000)
  | .release _ => (32, 0xFF7FFFFF, 0x06000000)
  | .idle => (8, 0xFF, 0x00)
  | .cmdCheck => (8, 0xFF, 0x01)
  | .loadPcm => (8, 0xFF, 0x02)
  | .storePcm => (8, 0xFF, 0x03)
  | .bsPut => (8, 0xFF, 0x10)
  | .bsGet => (8, 0xFF, 0x11)
  | .bsFlush => (8, 0xFF, 0x12)
  | .bsWinit => (8, 0xFF, 0x13)
  | .bsRinit => (8, 0xFF, 0x14)
  | .dct4Fwd => (8, 0xFF, 0x20)
  | .dct4Inv => (8, 0xFF, 0x21)
  | .winAna => (8, 0xFF, 0x30)
  | .headroom => (8, 0xFF, 0x31)
  | .winSyn => (8, 0xFF, 0x32)
  | .pwrEst => (8, 0xFF, 0x40)
  | .pwrAdj => (8, 0xFF, 0x41)
  | .pwrEnc => (8, 0xFF, 0x42)
  | .pwrDec => (8, 0xFF, 0x43)
  | .sdShift => (8, 0xFF, 0x44)
  | .categorize => (8, 0xFF, 0x50)
  | .catReplay => (8, 0xFF, 0x51)
  | .rateAdj => (8, 0xFF, 0x52)
  | .vqEnc => (8, 0xFF, 0x60)
  | .vqDec => (8, 0xFF, 0x61)
  | .noiseFill => (8, 0xFF, 0x62)
  | .rand => (8, 0xFF, 0x63)
  | .pack => (8, 0xFF, 0x64)
  | .frameCheck => (8, 0xFF, 0x70)
  | .conceal => (8, 0xFF, 0x71)

/-- The code word of an instruction as a number, with how many bits it has. -/
def codeNumber (i : Instr) : Nat × Nat :=
  match encode i with
  | .cmd w => (32, w.toNat)
  | .phase c => (8, c.toNat)

/-- A well-formed instruction's code word is its row's: the row's width, the row's match under the row's
mask; and the table's decoder reads it back. -/
def Statement (i : Instr) : Prop :=
  i.wellFormed = true →
    (codeNumber i).1 = (row i).1 ∧
    (codeNumber i).2 &&& (row i).2.1 = (row i).2.2 ∧
    decodeTableWord (codeNumber i).1 (codeNumber i).2 = some i

theorem init (side : Side) : Statement (.init side) := by
  cases side <;> intro h <;> first | cases h; done | decide

theorem setRate (side : Side) : Statement (.setRate side) := by
  cases side <;> intro h <;> first | cases h; done | decide

theorem encode (side : Side) : Statement (.encode side) := by
  cases side <;> intro h <;> first | cases h; done | decide

theorem decode (side : Side) : Statement (.decode side) := by
  cases side <;> intro h <;> first | cases h; done | decide

theorem fillIn (side : Side) : Statement (.fillIn side) := by
  cases side <;> intro h <;> first | cases h; done | decide

theorem release (side : Side) : Statement (.release side) := by
  cases side <;> intro h <;> first | cases h; done | decide

theorem idle : Statement .idle := by intro _; decide

theorem cmdCheck : Statement .cmdCheck := by intro _; decide

theorem loadPcm : Statement .loadPcm := by intro _; decide

theorem storePcm : Statement .storePcm := by intro _; decide

theorem bsPut : Statement .bsPut := by intro _; decide

theorem bsGet : Statement .bsGet := by intro _; decide

theorem bsFlush : Statement .bsFlush := by intro _; decide

theorem bsWinit : Statement .bsWinit := by intro _; decide

theorem bsRinit : Statement .bsRinit := by intro _; decide

theorem dct4Fwd : Statement .dct4Fwd := by intro _; decide

theorem dct4Inv : Statement .dct4Inv := by intro _; decide

theorem winAna : Statement .winAna := by intro _; decide

theorem headroom : Statement .headroom := by intro _; decide

theorem winSyn : Statement .winSyn := by intro _; decide

theorem pwrEst : Statement .pwrEst := by intro _; decide

theorem pwrAdj : Statement .pwrAdj := by intro _; decide

theorem pwrEnc : Statement .pwrEnc := by intro _; decide

theorem pwrDec : Statement .pwrDec := by intro _; decide

theorem sdShift : Statement .sdShift := by intro _; decide

theorem categorize : Statement .categorize := by intro _; decide

theorem catReplay : Statement .catReplay := by intro _; decide

theorem rateAdj : Statement .rateAdj := by intro _; decide

theorem vqEnc : Statement .vqEnc := by intro _; decide

theorem vqDec : Statement .vqDec := by intro _; decide

theorem noiseFill : Statement .noiseFill := by intro _; decide

theorem rand : Statement .rand := by intro _; decide

theorem pack : Statement .pack := by intro _; decide

theorem frameCheck : Statement .frameCheck := by intro _; decide

theorem conceal : Statement .conceal := by intro _; decide

end Sys2Proof.Laws.TableRow
end

