-- ==== Sys2Proof/Laws/Vec.lean ====
section
/-! SUPPORT. Reading after writing for the array operations of Machine/Vec.lean. -/

namespace Sys2Proof.Machine

variable {α : Type} {n : Nat}

theorem vget_of_lt [Inhabited α] (v : Vector α n) {i : Nat} (h : i < n) : vget v i = v[i] := by
  simp [vget, h]

theorem vget_of_ge [Inhabited α] (v : Vector α n) {i : Nat} (h : n ≤ i) : vget v i = default := by
  simp [vget, Nat.not_lt.mpr h]

/-- Two arrays that read the same everywhere are equal. -/
theorem vec_ext_vget [Inhabited α] {v u : Vector α n} (h : ∀ i < n, vget v i = vget u i) : v = u := by
  apply Vector.ext
  intro i hi
  simpa [vget, hi] using h i hi

@[simp] theorem vget_vgen [Inhabited α] (m : Nat) (f : Nat → α) (i : Nat) :
    vget (vgen m f) i = if i < m then f i else default := by
  simp [vget, vgen]

@[simp] theorem vget_replicate [Inhabited α] (m : Nat) (x : α) (i : Nat) :
    vget (Vector.replicate m x) i = if i < m then x else default := by
  simp [vget]

theorem vget_vset [Inhabited α] (v : Vector α n) (j : Nat) (x : α) (i : Nat) :
    vget (vset v j x) i = if i = j ∧ i < n then x else vget v i := by
  by_cases h : i < n
  · by_cases hij : i = j
    · subst hij; simp [vget, vset, h]
    · simp [vget, vset, h, hij, Ne.symm hij]
  · simp [vget, h]

@[simp] theorem vget_vset_self [Inhabited α] (v : Vector α n) {i : Nat} (x : α) (h : i < n) :
    vget (vset v i x) i = x := by simp [vget_vset, h]

theorem vget_vset_ne [Inhabited α] (v : Vector α n) {i j : Nat} (x : α) (h : i ≠ j) :
    vget (vset v j x) i = vget v i := by simp [vget_vset, h]

theorem vget_vfill [Inhabited α] (v : Vector α n) (m : Nat) (f : Nat → α) (i : Nat) :
    vget (vfill v m f) i = if i < m ∧ i < n then f i else vget v i := by
  by_cases h : i < n
  · simp [vfill, h]
  · simp [h, vget]

theorem vget_vfill_lt [Inhabited α] (v : Vector α n) {m i : Nat} (f : Nat → α) (h : i < m) (hn : i < n) :
    vget (vfill v m f) i = f i := by simp [vget_vfill, h, hn]

theorem vget_vfill_ge [Inhabited α] (v : Vector α n) {m i : Nat} (f : Nat → α) (h : m ≤ i) :
    vget (vfill v m f) i = vget v i := by simp [vget_vfill, Nat.not_lt.mpr h]

theorem vget_vfillFrom [Inhabited α] (v : Vector α n) (a b : Nat) (f : Nat → α) (i : Nat) :
    vget (vfillFrom v a b f) i = if a ≤ i ∧ i < b ∧ i < n then f i else vget v i := by
  by_cases h : i < n
  · simp [vfillFrom, h]
  · simp [h, vget]

theorem vget_vtake [Inhabited α] (v : Vector α n) (m i : Nat) :
    vget (vtake v m) i = if i < m then vget v i else default := by simp [vtake]

/-- A fill depends on the function below its bound only. -/
theorem vfill_congr [Inhabited α] (v : Vector α n) (m : Nat) {f g : Nat → α} (h : ∀ i < m, f i = g i) :
    vfill v m f = vfill v m g := by
  apply vec_ext_vget
  intro i _
  by_cases hm : i < m <;> simp [vget_vfill, hm, h i]

theorem lget_of_lt [Inhabited α] (l : List α) {i : Nat} (h : i < l.length) : lget l i = l[i] := by
  simp [lget, h]

theorem lget_of_ge [Inhabited α] (l : List α) {i : Nat} (h : l.length ≤ i) : lget l i = default := by
  simp [lget, h]

@[simp] theorem lget_map_range [Inhabited α] (f : Nat → α) (m i : Nat) :
    lget ((List.range m).map f) i = if i < m then f i else default := by
  by_cases h : i < m
  · simp [lget, h]
  · simp [lget, h]

end Sys2Proof.Machine
end

