-- ==== Sys2Proof/Laws/Transform.lean ====
section
/-! SUPPORT. What each part of the transform can make of its input: a property that the arithmetic of one
element keeps holds of every element after it. -/

namespace Sys2Proof.Machine

variable {α : Type} [Inhabited α] {N : Nat}

/-- The set of a stage that an element stands in lies wholly inside the block. -/
theorem set_inside {s p : Nat} (hN : N / 2 ^ s * 2 ^ s = N) (hp : p < N) :
    p / (N / 2 ^ s) * (N / 2 ^ s) + N / 2 ^ s ≤ N ∧ p % (N / 2 ^ s) < N / 2 ^ s := by
  generalize N / 2 ^ s = span at hN ⊢
  have hpos : 0 < span := by
    rcases Nat.eq_zero_or_pos span with h | h
    · subst h; omega
    · exact h
  have hlt : p / span < 2 ^ s := by
    rw [Nat.div_lt_iff_lt_mul hpos, Nat.mul_comm]; omega
  have := Nat.mul_le_mul_right span (Nat.succ_le_of_lt hlt)
  rw [Nat.succ_mul, Nat.mul_comm (2 ^ s)] at this
  exact ⟨by omega, Nat.mod_lt _ hpos⟩

/-- Part (a): every output of a stage is a sum or a difference of two inputs. -/
theorem butterfly_forall {P : α → Prop} {sum dif : Nat → α → α → α} {s : Nat} {x : Vector α N}
    (hN : N / 2 ^ s * 2 ^ s = N) (heven : N / 2 ^ s % 2 = 0)
    (hs : ∀ j a b, P a → P b → P (sum j a b)) (hd : ∀ j a b, P a → P b → P (dif j a b))
    (hx : ∀ i < N, P (vget x i)) : ∀ i < N, P (vget (butterfly sum dif s x) i) := by
  intro i hi
  obtain ⟨h1, h2⟩ := set_inside hN hi
  simp only [butterfly, vget_vgen, hi, if_true]
  split_ifs
  · exact hs _ _ _ (hx _ (by omega)) (hx _ (by omega))
  · exact hd _ _ _ (hx _ (by omega)) (hx _ (by omega))

/-- Part (b): every output is the combination of ten inputs of its group and one column of the matrix. -/
theorem partB_forall {P : α → Prop} {dot : (Nat → α) → (Nat → α) → α} {core : Nat → Nat → α}
    {x : Vector α N} (hN : N % 10 = 0)
    (hd : ∀ f, (∀ i < 10, P (f i)) → ∀ k < 10, P (dot f fun i => core i k))
    (hx : ∀ i < N, P (vget x i)) : ∀ i < N, P (vget (partB dot core x) i) := by
  intro i hi
  simp only [partB, vget_vgen, hi, if_true]
  exact hd _ (fun k hk => hx _ (by omega)) _ (Nat.mod_lt _ (by omega))

/-- Part (c): every output of a stage is a rotation of two inputs by an entry of the stage's table. -/
theorem rotation_forall {P : α → Prop} {rot : Rotations α} {table : Nat → Nat → α × α} {s : Nat}
    {x : Vector α N} (hN : N / 2 ^ s * 2 ^ s = N) (heven : N / 2 ^ s % 2 = 0)
    (hr : ∀ j < N / 2 ^ s / 2, ∀ l h, P l → P h →
      P (rot.le (table (N / 2 ^ s) j).1 (table (N / 2 ^ s) j).2 l h) ∧
      P (rot.he (table (N / 2 ^ s) j).1 (table (N / 2 ^ s) j).2 l h) ∧
      P (rot.lo (table (N / 2 ^ s) j).1 (table (N / 2 ^ s) j).2 l h) ∧
      P (rot.ho (table (N / 2 ^ s) j).1 (table (N / 2 ^ s) j).2 l h))
    (hx : ∀ i < N, P (vget x i)) : ∀ i < N, P (vget (rotation rot table s x) i) := by
  intro i hi
  obtain ⟨h1, h2⟩ := set_inside hN hi
  simp only [rotation, vget_vgen, hi, if_true]
  split_ifs
  · exact (hr _ (by omega) _ _ (hx _ (by omega)) (hx _ (by omega))).1
  · exact (hr _ (by omega) _ _ (hx _ (by omega)) (hx _ (by omega))).2.2.1
  · exact (hr _ (by omega) _ _ (hx _ (by omega)) (hx _ (by omega))).2.1
  · exact (hr _ (by omega) _ _ (hx _ (by omega)) (hx _ (by omega))).2.2.2

end Sys2Proof.Machine
end

