-- ==== Sys2Proof/Laws/Underrun.lean ====
section
/-! SUPPORT. `FRAME_CHECK`'s test for an underrun (log entry 25): where `W.UNDERRUN` has `REM` below 0 beside
it the test is that of 60_exceptions.md R406, and `VQ_DEC` keeps that. -/

namespace Sys2Proof.Machine

/-- The flag says no more than the cursor: where `W.UNDERRUN` is set, `REM` is below 0. -/
def underrunAgrees (s : State) : Prop := s.w.underrun = true → s.d.br.rem < 0

/-- Without bits left a guarded read answers `EXHAUSTED` and changes nothing (R190). -/
theorem getBit_exhausted {rd : Nat → Except Fault Byte} {br : BitReader} (h : br.rem ≤ 0) :
    getBit rd br = .ok (none, br) := by simp [getBit, h]

/-- So does the walk of a tree (R116). -/
theorem walkTree_exhausted {rd : Nat → Except Fault Byte} {tree : Nat → TreeNode} {br : BitReader}
    (h : br.rem ≤ 0) : walkTree rd tree br = .ok (none, br) := by
  simp [walkTree, walkFrom, getBit_exhausted h]

/-- With the cursor below 0, the vector loop is at its end or does not decode every vector. -/
theorem decodeVectors_below {rd : Nat → Except Fault Byte} {b : Build} {sd : SigReg 28}
    {r c k pos : Nat} {coef coef1 : SigReg 640} {br br1 : BitReader} (h : br.rem < 0)
    (ht : decodeVectors rd b sd r c k pos coef br = .ok (true, coef1, br1)) : br1 = br := by
  cases k with
  | zero => cases ht; rfl
  | succ k => simp [decodeVectors, walkTree_exhausted (Int.le_of_lt h)] at ht

/-- What `FRAME_CHECK` sees is R406's test where the flag and the cursor agree. -/
theorem underran_of_agree {s : State} (h : underrunAgrees s) :
    underran s.w s.d.br.rem = decide (s.d.br.rem < 0) := by
  unfold underrunAgrees at h
  cases hu : s.w.underrun <;> simp [underran, hu]
  have := h hu
  omega

/-- The flags of `FRAME_CHECK` are R406's where the flag and the cursor agree. -/
theorem checkedFlags_of_agree {s : State} (h : underrunAgrees s) (pad : Bool) (m : Mode) :
    checkedFlags s.w s.d.br.rem pad m =
      ferrSetIf ((List.range m.nreg).any fun r => outOfRange (vget s.w.abs r)) ferrRange
        (ferrSetIf (decide (s.d.br.rem < 0) && decide (s.w.catctl.val < m.nposs - 1)) ferrOverrun
          (ferrSetIf (decide (s.d.br.rem > 0) && pad) ferrPad s.w.ferr)) := by
  simp only [checkedFlags, underran_of_agree h]

/-- `VQ_DEC` keeps the agreement of the flag and the cursor (R332, R341). -/
theorem execVqDec_underrun_agrees {s t : State} (h : underrunAgrees s) (ht : execVqDec s = .next t) :
    underrunAgrees t := by
  unfold execVqDec at ht
  dsimp only at ht
  split at ht
  · cases ht; exact h
  · split at ht
    · cases ht
    · rename_i hd
      cases ht
      intro hu
      have hb := h hu
      rw [decodeVectors_below hb hd]
      exact hb
    · cases ht
      intro _
      exact Int.negSucc_lt_zero 0

end Sys2Proof.Machine
end

