-- ==== Sys2Proof/Tests/Slice0.lean ====
section
/-! SUPPORT. Small tests of the model. Expected values come from the spec: the encodings of 30_encoding.md
and the worked vectors of 95_test_vectors.md; the witnesses show that the hypotheses of the obligations can
be met. -/

set_option Elab.async false

namespace Sys2Proof.Tests

open Sys2Proof Sys2Proof.Machine

/-! ## Well-formedness smoke tests (30_encoding.md R102: the legal sides) -/

theorem test_wf_refuses_encode_dec : (Instr.encode .dec).wellFormed = false := by decide
theorem test_wf_refuses_decode_enc : (Instr.decode .enc).wellFormed = false := by decide
theorem test_wf_refuses_fillIn_enc : (Instr.fillIn .enc).wellFormed = false := by decide
theorem test_wf_accepts_release_dec : (Instr.release .dec).wellFormed = true := by decide

/-! ## Decoding: every constructor, from the words of R102 and the codes of R104 written bit by bit -/

theorem test_decode_init :
    decode (.cmd 0b00000001_0_00000000000000000000000#32) = .ok (.init .enc) ∧
    decode (.cmd 0b00000001_1_00000000000000000000000#32) = .ok (.init .dec) := by decide +kernel
theorem test_decode_setRate :
    decode (.cmd 0b00000010_0_00000000000000000000000#32) = .ok (.setRate .enc) ∧
    decode (.cmd 0b00000010_1_00000000000000000000000#32) = .ok (.setRate .dec) := by decide +kernel
theorem test_decode_encode :
    decode (.cmd 0b00000011_0_00000000000000000000000#32) = .ok (.encode .enc) := by decide +kernel
theorem test_decode_decode :
    decode (.cmd 0b00000100_1_00000000000000000000000#32) = .ok (.decode .dec) := by decide +kernel
theorem test_decode_fillIn :
    decode (.cmd 0b00000101_1_00000000000000000000000#32) = .ok (.fillIn .dec) := by decide +kernel
theorem test_decode_release :
    decode (.cmd 0b00000110_0_00000000000000000000000#32) = .ok (.release .enc) ∧
    decode (.cmd 0b00000110_1_00000000000000000000000#32) = .ok (.release .dec) := by decide +kernel
theorem test_decode_sequencer :
    decode (.phase 0b00000000#8) = .ok .idle ∧ decode (.phase 0b00000001#8) = .ok .cmdCheck ∧
    decode (.phase 0b00000010#8) = .ok .loadPcm ∧
    decode (.phase 0b00000011#8) = .ok .storePcm := by decide +kernel
theorem test_decode_bitstream :
    decode (.phase 0b00010000#8) = .ok .bsPut ∧ decode (.phase 0b00010001#8) = .ok .bsGet ∧
    decode (.phase 0b00010010#8) = .ok .bsFlush ∧ decode (.phase 0b00010011#8) = .ok .bsWinit ∧
    decode (.phase 0b00010100#8) = .ok .bsRinit := by decide +kernel
theorem test_decode_transform_window :
    decode (.phase 0b00100000#8) = .ok .dct4Fwd ∧ decode (.phase 0b00100001#8) = .ok .dct4Inv ∧
    decode (.phase 0b00110000#8) = .ok .winAna ∧ decode (.phase 0b00110001#8) = .ok .headroom ∧
    decode (.phase 0b00110010#8) = .ok .winSyn := by decide +kernel
theorem test_decode_power :
    decode (.phase 0b01000000#8) = .ok .pwrEst ∧ decode (.phase 0b01000001#8) = .ok .pwrAdj ∧
    decode (.phase 0b01000010#8) = .ok .pwrEnc ∧ decode (.phase 0b01000011#8) = .ok .pwrDec ∧
    decode (.phase 0b01000100#8) = .ok .sdShift := by decide +kernel
theorem test_decode_categorization :
    decode (.phase 0b01010000#8) = .ok .categorize ∧
    decode (.phase 0b01010001#8) = .ok .catReplay ∧
    decode (.phase 0b01010010#8) = .ok .rateAdj := by decide +kernel
theorem test_decode_quantizer_frame :
    decode (.phase 0b01100000#8) = .ok .vqEnc ∧ decode (.phase 0b01100001#8) = .ok .vqDec ∧
    decode (.phase 0b01100010#8) = .ok .noiseFill ∧ decode (.phase 0b01100011#8) = .ok .rand ∧
    decode (.phase 0b01100100#8) = .ok .pack ∧ decode (.phase 0b01110000#8) = .ok .frameCheck ∧
    decode (.phase 0b01110001#8) = .ok .conceal := by decide +kernel
theorem test_decode_rejects :
    decode (.cmd 0b00000111_0_00000000000000000000000#32) = .error (.reservedOpcode 7#8) ∧
    decode (.cmd 0b00000011_1_00000000000000000000000#32) = .error (.illegalSide 3#8 .dec) ∧
    decode (.cmd 0b00000001_0_10000000000000000000000#32) = .error (.reservedBits 0x400000#23) ∧
    decode (.phase 0b00000100#8) = .error (.unassignedPhase 4#8) := by decide +kernel

/-! ## A test ROM: integer tables of `ROM_X` (95_test_vectors.md section 2), the other tables zero -/

/-- `ROM_X`'s envelope code: `z` ones and a zero, `z = 23` without the zero. -/
def drpZ (j : Nat) : Nat := if 12 ≤ j then 2 * (j - 12) else 2 * (12 - j) - 1

/-- The symbol whose code has `z` ones. -/
def drpSymbol (z : Nat) : Nat := if z % 2 = 0 then 12 + z / 2 else 12 - (z + 1) / 2

def drpLens : Vector Nat 24 := vgen 24 fun j => min 23 (drpZ j + 1)

def drpCodes : Vector Nat 24 :=
  vgen 24 fun j => if drpZ j = 23 then 2 ^ 23 - 1 else 2 * (2 ^ drpZ j - 1)

def drpNodes : Vector TreeNode 23 :=
  vgen 23 fun n =>
    { zero := -(drpSymbol n : Int), one := if n < 22 then (n + 1 : Nat) else -(drpSymbol 23 : Int) }

/-- The tree of category 6: five bits, first bit most significant, nodes as in a heap. -/
def tree6 : List TreeNode :=
  (List.range 31).map fun n =>
    { zero := if 15 ≤ n then -((2 * n + 1 - 31 : Nat) : Int) else (2 * n + 1 : Nat)
      one := if 15 ≤ n then -((2 * n + 2 - 31 : Nat) : Int) else (2 * n + 2 : Nat) }

def sdRows : List Int :=
  List.replicate 22 0 ++
  [1, 1, 1, 1, 2, 3, 4, 6, 8, 11, 16, 23, 32, 45, 64, 91, 128, 181, 256, 362, 512, 724, 1024, 1448,
   2048, 2896, 4096, 5793, 8192, 11585, 16384, 23170]

def tRom : Rom :=
  { (default : Rom) with
    i16 := { (default : NumTables I16) with
      sd := vgen 64 fun i => toI16 (lget sdRows i)
      sdInv := vgen 64 fun i => if i = 34 then 4096#16 else 0#16
      stepInv := vgen 8 fun c => toI16 (lget [23167, 16384, 11585, 8192, 5793, 4096, 2896, 2896] c)
      centroid := vgen 8 fun _ => vgen 14 fun k => if k = 1 then 8045#16 else 0#16
      noise := vgen 3 fun i => toI16 (lget [5793, 8192, 23170] i)
      winAnaNb := vset (vset (Vector.replicate 320 0#16) 0 57#16) 319 23170#16
      winSynNb := vset (vset (Vector.replicate 320 0#16) 0 57#16) 319 23170#16 }
    fixedOnly := { (default : FixedTables) with
      dz := vgen 8 fun c => lget [39322, 43253, 47184, 51120, 55055, 58986, 65536, 65536] c
      synPostshift := 2#16, hrFull := 14000#16, hrSmall := 438#16, hrMul := 9587#16, hrShr := 20#16
      hrZero := 9#16, hrBias := 6#16, hrAvgShr := 7#16 }
    expbits := vgen 8 fun c => lget [52, 47, 43, 37, 29, 22, 16, 0] c
    vdim := vgen 8 fun c => lget [2, 2, 2, 4, 4, 5, 5, 1] c
    nvec := vgen 8 fun c => lget [10, 10, 10, 5, 5, 4, 4, 20] c
    kmax := vgen 8 fun c => lget [13, 9, 6, 4, 3, 2, 1, 1] c
    kinv := vgen 8 fun c => lget [2341, 3277, 4682, 6554, 8193, 10923, 16385, 16385] c
    drpLen := vgen 28 fun _ => drpLens
    drpCode := vgen 28 fun _ => drpCodes
    drpTree := vgen 28 fun _ => drpNodes
    vqLen := vgen 7 fun c => if c = 6 then List.replicate 32 5 else []
    vqCode := vgen 7 fun c => if c = 6 then List.range 32 else []
    vqTree := vgen 7 fun c => if c = 6 then tree6 else [] }

/-- The same with every category coded as category 6 is. -/
def codeRom : Rom :=
  { tRom with
    vdim := vgen 8 fun _ => 5, nvec := vgen 8 fun _ => 4, kmax := vgen 8 fun _ => 1
    kinv := vgen 8 fun _ => 16385, vqLen := vgen 7 fun _ => List.replicate 32 5
    vqCode := vgen 7 fun _ => List.range 32, vqTree := vgen 7 fun _ => tree6 }

def tBuild : Build :=
  { backend := .fixed, rom := tRom, prngSeed := vgen 4 fun _ => 1#16, framesBeyondOne := 0
    normZero := 0#16, tceBaseWord := 0#30, pcmByteOrder := .little }

/-- The reset state of that build. -/
def tState : State := { State.reset with build := tBuild }

/-- A state with both sides valid, `NB`, at a rate, with an operand in `ARG0`. -/
def nbState (rate arg : Nat) : State :=
  { tState with
    arg0 := BitVec.ofNat 32 arg
    e := { tState.e with valid := true, rate := BitVec.ofNat 16 rate }
    d := { tState.d with valid := true, rate := BitVec.ofNat 16 rate,
                         rand := vgen 4 fun _ => 1#16 } }

def bytes (l : List Nat) : List Host.Cell := l.zipIdx.map fun p => (p.2, BitVec.ofNat 8 p.1)

def isNext (o : Result) : Bool := match o with | .next _ => true | _ => false
def faultOf (o : Result) : Option Fault := match o with | .fault f => some f | _ => none
def next (o : Result) : State := match o with | .next s => s | _ => State.reset

theorem eq_next {o : Result} (h : isNext o = true) : o = .next (next o) := by
  cases o <;> simp [isNext, next] at h ⊢

def sig (l : List Int) : SigReg 640 :=
  { fx := l.zipIdx.foldl (fun v p => vset v p.2 (toI16 p.1)) (Vector.replicate 640 0#16)
    fl := Vector.replicate 640 0#32 }

/-! ## Basic operations (95 section 3) -/

def i (x : Int) : I16 := toI16 x
def j (x : Int) : I32 := toI32 x

theorem test_basic16 :
    add16 (i 30000) (i 5000) = i 32767 ∧ sub16 (i (-32768)) (i 1) = i (-32768) ∧
    neg16 (i (-32768)) = i 32767 ∧ abs16 (i (-32768)) = i 32767 ∧
    shl16 (i (-12345)) 2 = i (-32768) ∧ shl16 (i 255) 7 = i 32640 ∧ shl16 (i (-3)) (-1) = i (-2) ∧
    shr16 (i 1000) (-3) = i 8000 ∧ mult16 (i 1000) (i (-23170)) = i (-708) ∧
    mult16 (i (-32768)) (i (-32768)) = i 32767 ∧ norm16 0#16 (i 292) = i 6 ∧
    norm16 0#16 (i (-1)) = i 15 := by decide +kernel
theorem test_basic32 :
    add32 (j (-2000000000)) (j (-2000000000)) = j (-2147483648) ∧ sub32 (j 5) (j 7) = j (-2) ∧
    shl32 (j 65536) 15 = j 2147483647 ∧ shr32 (j 7) (-2) = j 28 ∧
    lmult (i (-32768)) (i (-32768)) = j 2147483647 ∧
    lmac (j (-2147483648)) (i (-32768)) (i (-32768)) = j (-1) ∧
    lmac0 (j (-5)) (i 3) (i (-4)) = j (-17) ∧ round16 (j 0x00018000) = i 2 ∧
    round16 (j 0x00017FFF) = i 1 ∧ rshr32 (j 5) 40 = j 0 ∧ rshr32 (j 5) (-2) = j 20 ∧
    xl (j 40000) = i (-25536) ∧ xh (j (-65537)) = i (-2) ∧
    norm32 0#16 (j 1000000) = i 11 := by decide +kernel

/-- R379, 92_eei_decisions.md D40: nearest, a tie to the even integer. -/
theorem test_rint :
    Config.nearestEven (5 / 2) = 2 ∧ Config.nearestEven (7 / 2) = 4 ∧
    Config.nearestEven (-1 / 2) = 0 ∧ Config.nearestEven (-3 / 2) = -2 ∧
    Config.nearestEven (13 / 5) = 3 ∧ Config.nearestEven (-12 / 5) = -2 := by decide +kernel

/-! ## Bitstream (95 section 4) -/

def bw0 : BitWriter := { acc := 0#32, res := 0, ptr := 0 }
def br0 (rem : Int) : BitReader := { acc := 0#32, res := 0, ptr := 0, rem := rem }

/-- `BS_PUT` of a value after the one before it, on an empty `BSBUF`. -/
def put (v n : Nat) (s : State) : State :=
  next (exec .bsPut (s.setPort { s.port with value := BitVec.ofNat 32 v, nbits := n }))

def get (n : Nat) (s : State) : State := next (exec .bsGet (s.setPort { s.port with nbits := n }))

theorem test_bsPut_then_flush :
    (put 0x1FF 9 (put 5 3 tState)).bs = bytes [0xBF] ∧
    (put 0x1FF 9 (put 5 3 tState)).e.bw.res = 4 ∧
    (next (exec .bsFlush (put 0x1FF 9 (put 5 3 tState)))).bs = bytes [0xBF, 0xF0] := by decide +kernel
theorem test_bsPut_wide_and_masked :
    (put 0x3F 6 (put 0x1ABCDEF 25 (put 1 1 tState))).bs = bytes [0xEA, 0xF3, 0x7B, 0xFF] ∧
    (put 0xA 4 (put 0xFFFFFFF5 4 tState)).bs = bytes [0x5A] := by decide +kernel
theorem test_bsGet_sequence :
    let s1 := get 3 (tState.setBs (bytes [0xBF, 0xF0, 0x12, 0x34, 0x56, 0x78]))
    let s2 := get 9 s1
    let s4 := get 32 (get 4 s2)
    s1.port.result = 5#32 ∧ s2.port.result = 0x1FF#32 ∧ s4.port.result = 0x12345678#32 ∧
      s4.d.br.ptr = 6 := by decide +kernel
theorem test_guarded_read :
    getBits (readBs (tState.setBs (bytes [0xA5]))) 3 (br0 3) =
      .ok (some [true, false, true], { acc := 0xA5#32, res := 5, ptr := 1, rem := 0 }) ∧
    getBits (readBs (tState.setBs (bytes [0xA5]))) 5 (br0 3) =
      .ok (none, { acc := 0xA5#32, res := 5, ptr := 1, rem := 0 }) := by decide +kernel
theorem test_cursors_second_frame :
    (next (exec .bsWinit ((nbState 24000 0).setFrame 1))).e.bw.ptr = 60 ∧
    (next (exec .bsRinit ((nbState 24000 0).setFrame 1))).d.br =
      { acc := 0#32, res := 0, ptr := 60, rem := 480 } := by decide +kernel

/-! ## Transform, window, headroom (95 sections 5, 6) -/

theorem test_butterfly_stage0 :
    let x : Vector I16 20 := vgen 20 fun k => toI16 (lget [1000, -2000, 3000, -4000, 5000, -6000, 7000,
      -8000, 9000, -10000, 10000, -9000, 8000, -7000, 6000, -5000, 4000, -3000, 2000, -1000] k)
    let y := butterfly (fun _ => halfSum) (fun _ => halfDif) 0 x
    (vget y 0).toInt = -500 ∧ (vget y 5).toInt = 500 ∧ (vget y 18).toInt = 3500 ∧
      (vget y 19).toInt = 1500 := by decide +kernel
theorem test_core_columns :
    let x : Nat → I16 := fun k => toI16 (lget [-500, -500, -500, -500, -500, 500, 500, 500, 500, 500] k)
    dotFixed x (fun k => toI16 (lget [10330, 10076, 9573, 8835, 7879, 6730, 5414, 3965, 2419, 813] k)) = toI16 (-417) ∧
    dotFixed x (fun k => toI16 (lget [10076, 7879, 3965, -813, -5414, -8835, -10330, -9573, -6730, -2419] k)) =
      toI16 (-818) := by decide +kernel
theorem test_rotation_stage :
    let t : List (Int × Int) := [(32743, -1286), (32541, -3851), (32138, -6393), (31538, -8895), (30743, -11342), (29758, -13719), (28590, -16011), (27246, -18205), (25733, -20286), (24062, -22243)]
    let x : Vector I16 20 := vgen 20 fun k => toI16 (lget [-417, -818, 499, 63, -50, -251, 224, 35, -34,
      -191, 11614, -7150, -2201, 54, 240, -533, -182, -56, 97, -109] k)
    let y := rotation rotFixed (fun _ k => (toI16 (lget t k).1, toI16 (lget t k).2)) 0 x
    (List.range 20).map (fun k => (vget y k).toInt) = [39, 28, 60, 46, 36, -5, 107, 60, 33, -66, 210, 97,
      27, -268, 589, 242, -69, -2256, 7197, 11622] := by decide +kernel
theorem test_headroom_rule :
    (headroomShift tRom 0#16 0 0#32).toInt = 9 ∧ (headroomShift tRom 0#16 54 54#32).toInt = 8 ∧
    (headroomShift tRom 0#16 437 437#32).toInt = 5 ∧
    (headroomShift tRom 0#16 1000 128001#32).toInt = 4 ∧
    (headroomShift tRom 0#16 1000 128128#32).toInt = 3 ∧
    (headroomShift tRom 0#16 14000 4480000#32).toInt = -1 := by decide +kernel

/-! ## Region power (95 section 7) -/

theorem test_pwrEst_exponents :
    powerScale (j 0) = -16 ∧ powerScale (j 1) = -15 ∧ powerScale (j 200000) = 2 ∧
    powerScale (j 1310720) = 5 ∧ powerScale (j 2147483647) = 16 := by decide +kernel
theorem test_pwrAdj_row2 :
    adjustIndices [5, -20, -20, 3, 20, 20, 28, 0, 0, 0, 0, 0, -23, -23] =
      [(14, 5), (0, -7), (17, -2), (23, 9), (23, 20), (12, 20), (14, 22), (0, 10), (2, 0), (12, 0),
       (12, 0), (12, 0), (0, -12), (7, -17)] := by decide +kernel

/-- `W.SYM` from a list, in a valid `NB` state. -/
def symState (l : List Nat) : State :=
  let s := nbState 24000 0
  s.setW { s.w with sym := vgen 28 fun r => Fin.ofNat 32 (lget l r) }

/-- `W.ABS` from a list. -/
def absState (l : List Int) : State :=
  let s := nbState 24000 0
  s.setW { s.w with abs := vgen 28 fun r => toI16 (lget l r) }

theorem test_pwrEnc_lengths :
    (next (exec .pwrEnc (symState (1 :: 3 :: List.replicate 12 12)))).w.envbits = 35 ∧
    (next (exec .pwrEnc (symState (1 :: 3 :: List.replicate 12 12)))).w.env =
      [false, false, false, false, true] ++ List.replicate 17 true ++ [false] ++
        List.replicate 12 false := by decide +kernel

/-- The 60 bytes of scenario E7. -/
def frameE7 : List Host.Cell :=
  bytes ([0x0f, 0xff, 0xfc] ++ List.replicate 36 0 ++ [1] ++ List.replicate 20 0xff)

theorem test_pwrDec_E7 :
    let t := next (exec .pwrDec (next (exec .bsRinit ((nbState 24000 0).setBs frameE7))))
    (vget t.w.abs 0).toInt = -8 ∧ (vget t.w.abs 1).toInt = -17 ∧ (vget t.w.abs 13).toInt = -17 ∧
      t.w.catctl = 0 ∧ t.d.br.rem = 441 ∧ t.w.ferr = 0#4 := by decide +kernel
theorem test_sdShift_rows :
    let t := next (exec .sdShift (absState (-8 :: List.replicate 13 (-17))))
    let u := next (exec .sdShift (absState (List.replicate 14 22)))
    t.w.magsh.toInt = 9 ∧ (vget t.w.sd.fx 0).toInt = 32 ∧ (vget t.w.sd.fx 13).toInt = 1 ∧
      u.w.magsh.toInt = -1 ∧ (vget u.w.sd.fx 0).toInt = 1024 := by decide +kernel

/-! ## Categorization (95 sections 7.5, 7.6) -/

theorem test_budget :
    budgetOf .nb 441 = 395 ∧ budgetOf .nb 321 = 320 ∧ budgetOf .wb 827 = 756 ∧
    budgetOf .wb 900 = 802 := by decide +kernel
theorem test_categorize_K1 :
    let p := categorization (vget tRom.expbits) .nb (lget (-8 :: List.replicate 13 (-17))) 441
    p.1 = -8 ∧ p.2.mx = [0, 3, 3, 3, 4, 4, 4, 4, 4, 4, 4, 4, 4, 4] ∧
      p.2.bal = [3, 2, 1, 13, 12, 11, 10, 9, 8, 7, 6, 5, 4, 3, 2] ∧ p.2.emax = 453 ∧
      p.2.emin = 345 := by decide +kernel

/-- `W.CAT0`, `W.BAL` and `W.CATCTL` of K1. -/
def k1State (c : Nat) : State :=
  let s := nbState 24000 0
  s.setW { s.w with
    cat0 := vgen 28 fun r => Fin.ofNat 8 (lget [0, 3, 3, 3, 4, 4, 4, 4, 4, 4, 4, 4, 4, 4] r)
    bal := vgen 31 fun k => Fin.ofNat 28 (lget [3, 2, 1, 13, 12, 11, 10, 9, 8, 7, 6, 5, 4, 3, 2] k)
    catctl := Fin.ofNat 32 c }

theorem test_catReplay_K1 :
    ((List.range 14).map fun r => (vget (next (exec .catReplay (k1State 7))).w.cat r).val) =
      [0, 4, 4, 4, 4, 4, 4, 4, 4, 4, 5, 5, 5, 5] := by decide +kernel

/-! ## Vector quantizer, noise, generator (95 section 8) -/

theorem test_decompose :
    decompose tRom 195 0 = ([13, 13], 2) ∧ decompose tRom 200 3 = ([1, 3, 0, 0], 2) ∧
    decompose tRom 100 5 = ([1, 0, 2, 0, 1], 3) ∧ decompose tRom 21 6 = ([1, 0, 1, 0, 1], 3) := by
  decide +kernel

/-- Region 0 in category 6 with `W.IDXQ = 34` and the coefficients of Q7. -/
def q7State (l : List Int) : State :=
  let s := nbState 24000 0
  s.setW { s.w with
    coef := sig l, cat := vgen 28 fun _ => 6, idxq := vgen 28 fun _ => 34
    sd := { s.w.sd with fx := vgen 28 fun _ => 32#16 } }

/-- The 22 bits of Q7. -/
def q7Bits : List Bool :=
  [false, false, true, false, false, false, false, false, false, false, false, false, false, false,
   false, false, false, false, false, false, true, false]

theorem test_vqEnc_Q7 :
    vget (next (exec .vqEnc (q7State ([44, 45, -46] ++ List.replicate 16 0 ++ [-32768])))).w.rbits 0 =
      q7Bits := by decide +kernel

/-- The same region with the 22 bits of Q7 as the rest of the frame. -/
def q7Dec : State :=
  let s := (q7State []).setBs (bytes [0x20, 0x00, 0x08])
  s.setD { s.d with br := br0 22 }

theorem test_vqDec_Q7 :
    let t := next (exec .vqDec q7Dec)
    (vget t.w.coef.fx 2).toInt = -62 ∧ (vget t.w.coef.fx 19).toInt = -62 ∧
      (vget t.w.coef.fx 0).toInt = 0 ∧ t.d.br.rem = 0 ∧ t.w.underrun = false := by decide +kernel
theorem test_vqDec_underrun :
    let t := next (exec .vqDec (q7Dec.setD { q7Dec.d with br := br0 4 }))
    t.w.underrun = true ∧ t.d.br.rem = -1 ∧ vget t.w.cat 0 = 7 ∧ vget t.w.cat 13 = 7 ∧
      vget t.w.cat 14 = 6 := by decide +kernel
theorem test_noiseFill_Q7 :
    let t := next (exec .noiseFill (q7State ([0, 0, -62] ++ List.replicate 16 0 ++ [-62])))
    ((List.range 20).map fun k => (vget t.w.coef.fx k).toInt) =
      [-8, 8, -62, -8, -8, -8, -8, -8, -8, -8, 8, 8, -8, -8, -8, -8, -8, -8, -8, -62] ∧
    t.d.rand.toList = [3#16, 2#16, 1#16, 1#16] := by decide +kernel
theorem test_rand_wraps :
    let g : Vector (BitVec 16) 4 := vgen 4 fun k => lget [0xFFFF#16, 0x8000#16, 0x0001#16, 0x7FFF#16] k
    (randDraw g).1 = 0x7FFE#16 ∧ (randDraw (randDraw g).2).1 = 0x7FFF#16 ∧
      (randDraw (randDraw (randDraw g).2).2).1 = 0xFFFF#16 := by decide +kernel

/-! ## Window and headroom (95 section 6) -/

/-- A block with one element that is not 0. -/
def spike (p : Nat) (x : Int) (k : Nat) : I16 := if k = p then toI16 x else 0#16

theorem test_winAna :
    foldFixed (tRom.i16.winAna .nb) 320 (spike 0 0) (spike 0 10000) 160 = toI16 7071 ∧
    foldFixed (tRom.i16.winAna .nb) 320 (spike 0 0) (spike 319 10000) 160 = toI16 (-17) ∧
    foldFixed (tRom.i16.winAna .nb) 320 (spike 0 0) (spike 0 10000) 0 = 0#16 := by decide +kernel
theorem test_winSyn :
    overlapFixed (tRom.i16.winSyn .nb) 2#16 320 (spike 0 0) (spike 0 1000) 0 = toI16 2828 ∧
    overlapFixed (tRom.i16.winSyn .nb) 2#16 320 (spike 0 0) (spike 0 1000) 319 = toI16 (-7) ∧
    overlapFixed (tRom.i16.winSyn .nb) 2#16 320 (spike 159 8000) (spike 0 0) 319 = toI16 22627 := by
  decide +kernel
theorem test_winSyn_unshifts :
    unshifted 3#16 (spike 160 1234) 160 = toI16 154 ∧
    unshifted 3#16 (spike 319 (-4321)) 319 = toI16 (-541) ∧
    unshifted (toI16 (-1)) (spike 160 1234) 160 = toI16 2468 := by decide +kernel
theorem test_headroom :
    let s := nbState 24000 0
    (next (exec .headroom (s.setW { s.w with u := sig [54] }))).w.magsh.toInt = 8 ∧
      shiftBy 8 (toI16 54) = toI16 13824 ∧ shiftBy (-1) (toI16 (-3)) = toI16 (-2) := by decide +kernel
theorem test_pwrEst :
    let s := nbState 24000 0
    let t := next (exec .pwrEst (s.setW { s.w with magsh := 2#16, coef := sig [300, -200, 100, 50] }))
    (vget t.w.abs 0).toInt = 9 ∧ (vget t.w.abs 1).toInt = -9 := by decide +kernel

/-! ## Frame micro-operations -/

/-- The payload 101 0110 of a frame of one byte (30_encoding.md R107 to R113): padded with a one. -/
theorem test_pack_pads_with_ones :
    let s := nbState 400 0
    let t := next (exec .pack (s.setW { s.w with env := [true, false, true], catctl := 6 }))
    t.bs = bytes [0xAD] ∧ t.w.framebits.length = 8 := by decide +kernel
/-- R407: a leftover 0 sets `PAD`; R409: 23 and -18 set `RANGE`, 22 and -17 do not. -/
theorem test_frameCheck_pad_range :
    let s := (absState [22, -17]).setBs (bytes [0xFE])
    let u := (absState [0, 23]).setBs (bytes [0xFF])
    (next (exec .frameCheck (s.setD { s.d with br := br0 8 }))).w.ferr = 1#4 ∧
    (next (exec .frameCheck (u.setD { u.d with br := br0 8 }))).w.ferr = 4#4 := by decide +kernel
/-- R408 (b): an underrun is an error below the last control value only; R37: `W.UNDERRUN` is read. -/
theorem test_frameCheck_overrun :
    let s := nbState 24000 0
    let u := s.setD { s.d with br := br0 (-1) }
    (next (exec .frameCheck (u.setW { u.w with catctl := 14 }))).w.ferr = 2#4 ∧
    (next (exec .frameCheck (u.setW { u.w with catctl := 15 }))).w.ferr = 0#4 ∧
    (next (exec .frameCheck (s.setW { s.w with catctl := 14, underrun := true }))).w.ferr = 2#4 ∧
    (next (exec .frameCheck (s.setW { s.w with catctl := 14 }))).w.ferr = 0#4 := by decide +kernel
/-- R412, R413: a bad frame gets the retained coefficients and forgets them. -/
theorem test_conceal_bad :
    let s := nbState 24000 0
    let u := s.setD { s.d with oldcoef := sig [7], oldshift := 5#16 }
    let t := next (exec .conceal (u.setW { u.w with coef := sig [9], ferr := 4#4, magsh := 2#16 }))
    (vget t.w.coef.fx 0).toInt = 7 ∧ t.w.magsh = 5#16 ∧ (vget t.d.oldcoef.fx 0).toInt = 0 ∧
      t.d.oldshift = 0#16 := by decide +kernel
theorem test_conceal_good :
    let s := nbState 24000 0
    let t := next (exec .conceal (s.setW { s.w with coef := sig [9], magsh := 2#16 }))
    (vget t.w.coef.fx 0).toInt = 9 ∧ (vget t.d.oldcoef.fx 0).toInt = 9 ∧
      t.d.oldshift = 2#16 := by decide +kernel
/-- R312 with nothing to code (every category 7): the finest control value, or the last when even an empty
frame does not fit. -/
theorem test_rateAdj_ends :
    let s := nbState 24000 0
    let u := s.setW { s.w with cat0 := vgen 28 fun _ => 7 }
    (next (exec .rateAdj (u.setW { u.w with avail := 100 }))).w.catctl = 0 ∧
    (next (exec .rateAdj (u.setW { u.w with avail := -77 }))).w.catctl = 15 := by decide +kernel
/-- 10_state.md R57: a sample nothing has written is a fault; R373 copies the others. -/
theorem test_loadPcm_unwritten :
    faultOf (exec .loadPcm (nbState 24000 0)) = some (.pcmUnwritten 0) ∧
    faultOf (exec .loadPcm ((nbState 24000 0).setPcm [(0, 5#16)])) = some (.pcmUnwritten 1) := by
  decide +kernel
theorem test_storePcm :
    let s := nbState 24000 0
    let t := next (exec .storePcm (s.setW { s.w with out := sig [11, -12] }))
    Memory.read t.pcm 1 = some (toI16 (-12)) := by decide +kernel

/-! ## Commands (95 sections 9, 10: programs P1, P2, P5) -/

/-- A command word as the host's next access, with operands. -/
def command (w a0 a1 : Nat) (s : State) : State :=
  ({ s with arg0 := BitVec.ofNat 32 a0, arg1 := BitVec.ofNat 32 a1 }).withFetchWord 32 w

theorem test_init_ok :
    let t := next (step (command 0x01800000 24000 16000 tState))
    t.d.valid = true ∧ t.e.valid = false ∧ t.d.rate.toNat = 24000 ∧ statusWord t = 0x004#32 ∧
      t.d.rand.toList = [1#16, 1#16, 1#16, 1#16] := by decide +kernel
theorem test_init_config_errors :
    (next (step (command 0x01000000 15999 16000 tState))).cmdErr = .cfgErr ∧
    (next (step (command 0x01000000 24000 8000 tState))).cmdErr = .cfgErr ∧
    (next (step (command 0x01000000 48001 16000 tState))).e.valid = false := by decide +kernel
theorem test_setRate :
    (next (step (command 0x02000000 24001 0 (nbState 24000 0)))).e.rate.toNat = 24000 ∧
    (next (step (command 0x02000000 24001 0 (nbState 24000 0)))).cmdErr = .cfgErr ∧
    (next (step (command 0x02000000 32000 0 (nbState 24000 0)))).e.rate.toNat = 32000 := by
  decide +kernel
theorem test_release :
    (next (step (command 0x06800000 0 0 (nbState 24000 0)))).d.valid = false ∧
    (next (step (command 0x06800000 0 0 tState))).cmdErr = .noCtx := by decide +kernel
theorem test_buffer_and_illegal_commands :
    (next (step (command 0x03000000 640 0 (nbState 24000 0)))).cmdErr = .bufErr ∧
    (next (step (command 0x03800000 0 0 (nbState 24000 0)))).cmdErr = .illCmd ∧
    (next (step (command 0x03000000 319 0 (nbState 24000 0)))).cmdErr = .ok := by decide +kernel
/-- P4: one erased frame reports `ERASED`. -/
theorem test_fillIn_one_frame :
    let t := next (step (command 0x05800000 60 0 (nbState 24000 0)))
    t.errInfo = 0x00010088#32 ∧ t.result = 320#32 ∧ statusWord t = 0x106#32 := by decide +kernel
/-- 10.2, last line: 40 bytes `ff` at 16000 in `WB` end inside the header. -/
theorem test_decode_header_overrun :
    let s := nbState 16000 0
    let w := (s.setD { s.d with mode := .wb }).setBs (bytes (List.replicate 40 0xff))
    let t := next (step (command 0x04800000 40 0 w))
    t.errInfo = 0x00010022#32 ∧ t.result = 640#32 := by decide +kernel
theorem test_cmdCheck :
    let s := (nbState 24000 640).setHost { tState.host with cmdWord := 0x03000000#32 }
    (next (exec .cmdCheck s)).cmdErr = .bufErr ∧
    (next (exec .cmdCheck { s with arg0 := 320#32 })).seq.nframes = 1 := by decide +kernel

/-! ## Witnesses: the hypotheses of the obligations can be met

Each theorem gives concrete states and operands at which all hypotheses of the statement of that name hold
together, one for each clause, at boundary values where a clause has a range. -/

/-- The host's next access. -/
def pend (a : HostAccess) (s : State) : State := s.setHost { s.host with pending := [a] }

/-- The word of the `CMD` write being run. -/
def withWord (w : Word) (s : State) : State := s.setHost { s.host with cmdWord := w }

/-- `n` written samples. -/
def samples (n : Nat) : Memory 16 := Memory.writeList [] 0 (List.replicate n 0#16)

theorem read_samples (n k : Nat) :
    Memory.read (samples n) k = if k < n then some 0#16 else none := by
  simp only [samples, Memory.read_writeList, List.length_replicate, Memory.read, Nat.zero_le, true_and,
    Nat.zero_add, Nat.sub_zero]
  split <;> simp_all

theorem samplesReady_samples {s : State} {n m : Nat} (h : m ≤ n) :
    samplesReady (s.setPcm (samples n)) 0 m := by
  intro i _ h2
  have : i < n := by omega
  simp [State.setPcm, read_samples, this]

/-- The `FLOAT` variant of a state. -/
def float (s : State) : State := { s with build := { s.build with backend := .float } }

/-- Another ROM. -/
def withRom (r : Rom) (s : State) : State := { s with build := { s.build with rom := r } }

theorem bytesReady_of_all {s : State} {a n : Nat}
    (h : (List.range n).all (fun k => (Memory.read (w := 8) s.bs (a + k)).isSome) = true) :
    bytesReady s a n := by
  intro i h1 h2
  have := List.all_eq_true.mp h (i - a) (List.mem_range.mpr (by omega))
  rwa [Nat.add_sub_cancel' h1] at this

theorem test_witness_StepRunsTheDecodedInstruction :
    (tState.seq.phase = 0x00#8 ∧
      (pend (.regWrite 0x00 32 0x01000000#32) tState).host.pending =
        .regWrite 0x00 32 0x01000000#32 :: [] ∧
      decodeCommand 0x01000000#32 = .ok (.init .enc)) ∧
    ((tState.setPhase 0x63#8).seq.phase ≠ 0x00#8 ∧
      decodePhase (tState.setPhase 0x63#8).seq.phase = .ok .rand) ∧
    tState.host.pending = [] ∧ decodeTableWord 32 0x06800000 = some (.release .dec) ∧
    (decodeTableWord 8 0x71 = some .conceal ∧ Instr.conceal ≠ .idle) := by decide +kernel

theorem test_witness_MicroStepsReachTheCommandsState :
    let s := withWord 0x05800000#32 (nbState 24000 60)
    let r := withWord 0x02000000#32 (nbState 24000 16000)
    ((Instr.fillIn .dec).isCommand = true ∧ (Instr.fillIn .dec).wellFormed = true ∧
      s.host.cmdWord = wordOf (.fillIn .dec) ∧ s.seq.phase = 0x00#8) ∧
    ((Instr.setRate .enc).isCommand = true ∧ (Instr.setRate .enc).wellFormed = true ∧
      r.host.cmdWord = wordOf (.setRate .enc) ∧ r.seq.phase = 0x00#8) ∧
    (∃ t, exec (.fillIn .dec) s = .next t) ∧ (∃ t, exec (.setRate .enc) r = .next t) ∧
    (s.e.valid = true ∧ s.d.valid = true ∧ (nbState 24000 320).arg0.toNat / Mode.nb.blk = 1 ∧
      s.arg0.toNat / (s.d.rate.toNat / 50 / 8) = 1 ∧ 1 ≤ s.build.maxFrames) :=
  ⟨by decide +kernel, by decide +kernel, ⟨_, eq_next (by decide +kernel)⟩,
    ⟨_, eq_next (by decide +kernel)⟩, by decide +kernel⟩

/-- A sound state between commands with written cells and a host write to do. -/
def soundState : State :=
  pend (.bsWrite 119 7#8) (((nbState 48000 0).setPcm [(0, 5#16), (639, 1#16)]).setBs (bytes [1, 2]))

theorem test_witness_EveryStepKeepsTheStateSound :
    soundState.Inv ∧ ∃ t, step soundState = .next t :=
  ⟨by unfold State.Inv ratesLegal buffersSound statusSound; decide +kernel,
    ⟨_, eq_next (by decide +kernel)⟩⟩

theorem test_witness_EveryStepBetweenCommandsEndsAtRest :
    atRest soundState ∧ atRest (float soundState) ∧ (∃ t, step soundState = .next t) ∧
      ∃ t, step (float soundState) = .next t :=
  ⟨by unfold atRest; decide +kernel, by unfold atRest; decide +kernel,
    ⟨_, eq_next (by decide +kernel)⟩, ⟨_, eq_next (by decide +kernel)⟩⟩

/-- Every antecedent: an instruction of each group completes. -/
theorem test_witness_InstructionsLeaveAlone :
    let s := nbState 24000 60
    (∃ t, exec .rand s = .next t) ∧ (∃ t, exec (.encode .enc) s = .next t) ∧
      (∃ t, exec (.decode .dec) (s.setBs frameE7) = .next t) ∧
      ∃ t, exec (.fillIn .dec) s = .next t :=
  ⟨⟨_, eq_next (by decide +kernel)⟩, ⟨_, eq_next (by decide +kernel)⟩,
    ⟨_, eq_next (by decide +kernel)⟩, ⟨_, eq_next (by decide +kernel)⟩⟩

/-- Each of `VALID`, `MODE` and `RATE` does change. -/
theorem test_witness_ContextsChangeOnlyByTheirCommands :
    let s := { nbState 24000 48000 with arg1 := 32000#32 }
    let e := next (exec (.init .enc) s)
    let d := next (exec (.init .dec) s)
    let x := next (exec (.release .enc) s)
    let y := next (exec (.release .dec) s)
    (isNext (exec (.init .enc) s) = true ∧ e.e.mode ≠ s.e.mode ∧ e.e.rate ≠ s.e.rate) ∧
    (isNext (exec (.init .dec) s) = true ∧ d.d.mode ≠ s.d.mode ∧ d.d.rate ≠ s.d.rate) ∧
    (isNext (exec (.release .enc) s) = true ∧ x.e.valid ≠ s.e.valid) ∧
    (isNext (exec (.release .dec) s) = true ∧ y.d.valid ≠ s.d.valid) := by decide +kernel

theorem test_categoryWf_tRom : categoryWf tRom := by unfold categoryWf indexCount; decide +kernel

theorem test_witness_CommandsDoNotReadOldWorkRegisters :
    (Instr.decode .dec).isCommand = true ∧ categoryWf tState.build.rom :=
  ⟨rfl, test_categoryWf_tRom⟩

/-- The condition of R105. -/
abbrev illegal (w : Nat) : Prop :=
  w / 2 ^ 24 = 0 ∨ 7 ≤ w / 2 ^ 24 ∨ w % 2 ^ 23 ≠ 0 ∨ (w / 2 ^ 24 = 3 ∧ w / 2 ^ 23 % 2 = 1) ∨
    ((w / 2 ^ 24 = 4 ∨ w / 2 ^ 24 = 5) ∧ w / 2 ^ 23 % 2 = 0)

theorem test_witness_IllegalCommandWords :
    (∀ w ∈ [0x00000000, 0x07000000, 0xFFFFFFFF, 0x01000001, 0x03800000, 0x04000000, 0x05000000],
      illegal w) ∧ ¬ illegal 0x06800000 ∧ tState.seq.phase = 0x00#8 ∧
      (pend (.regWrite 0x00 32 0x07000000#32) tState).host.pending =
        .regWrite 0x00 32 0x07000000#32 :: [] :=
  ⟨by decide +kernel, by decide +kernel, rfl, rfl⟩

theorem test_witness_CommandsWithoutContext :
    validOf tState .enc = false ∧ validOf tState .dec = false := by decide

theorem test_witness_IllegalOperands :
    let legal (s : State) : Prop :=
      16000 ≤ s.arg0.toNat ∧ s.arg0.toNat ≤ 48000 ∧ s.arg0.toNat % 800 = 0
    ¬ legal (nbState 24000 15999) ∧ ¬ legal (nbState 24000 16001) ∧ ¬ legal (nbState 24000 48001) ∧
      legal (nbState 24000 16000) ∧ legal (nbState 24000 48000) ∧
      (tState.arg1.toNat ≠ 16000 ∧ tState.arg1.toNat ≠ 32000) ∧
      validOf (nbState 24000 15999) .enc = true ∧ validOf (nbState 24000 15999) .dec = true := by
  decide +kernel

theorem test_witness_TooManyFrames :
    let s := nbState 24000 640
    s.e.valid = true ∧ s.build.maxFrames < s.arg0.toNat / s.e.mode.blk ∧ s.d.valid = true ∧
      s.build.maxFrames < s.arg0.toNat / (s.d.rate.toNat / 50 / 8) := by decide +kernel

theorem test_witness_Init :
    let s (r : Nat) (m : Word) := { nbState 24000 r with arg1 := m }
    (16000 ≤ (s 16000 16000#32).arg0.toNat ∧ (s 16000 16000#32).arg0.toNat ≤ 48000 ∧
      (s 16000 16000#32).arg0.toNat % 800 = 0 ∧ (s 16000 16000#32).arg1 = 16000#32) ∧
    (16000 ≤ (s 48000 32000#32).arg0.toNat ∧ (s 48000 32000#32).arg0.toNat ≤ 48000 ∧
      (s 48000 32000#32).arg0.toNat % 800 = 0 ∧ (s 48000 32000#32).arg1 = 32000#32) ∧
    (s 16000 16000#32).build.backend = .fixed ∧
    (float (s 16000 16000#32)).build.backend = .float := by decide +kernel

theorem test_witness_SetRate_Release :
    let s := nbState 24000 48000
    16000 ≤ s.arg0.toNat ∧ s.arg0.toNat ≤ 48000 ∧ s.arg0.toNat % 800 = 0 ∧ s.e.valid = true ∧
      s.d.valid = true := by decide +kernel

theorem test_witness_EncodeCompletes :
    let s := (nbState 24000 320).setPcm (samples 320)
    s.e.valid = true ∧ legalRate s.e.rate.toNat = true ∧
      s.arg0.toNat / s.e.mode.blk ≤ s.build.maxFrames ∧ 1 ≤ s.arg0.toNat / s.e.mode.blk ∧
      samplesReady s 0 (s.arg0.toNat / s.e.mode.blk * s.e.mode.blk) :=
  ⟨by decide, by decide +kernel, by decide +kernel, by decide +kernel,
    samplesReady_samples (by decide +kernel)⟩

theorem test_witness_DecodeAndFillInComplete :
    let s := (nbState 24000 60).setBs frameE7
    s.d.valid = true ∧ legalRate s.d.rate.toNat = true ∧
      s.arg0.toNat / (s.d.rate.toNat / 400) ≤ s.build.maxFrames ∧
      1 ≤ s.arg0.toNat / (s.d.rate.toNat / 400) ∧
      bytesReady s 0 (s.arg0.toNat / (s.d.rate.toNat / 400) * (s.d.rate.toNat / 400)) :=
  ⟨by decide, by decide +kernel, by decide +kernel, by decide +kernel,
    bytesReady_of_all (by decide +kernel)⟩

/-- 16000 in `WB`: the header of 40 bytes `ff` overruns (10.2), and so does one that begins with 0. -/
def badState : State :=
  let s := nbState 16000 40
  (s.setD { s.d with mode := .wb }).setBs (bytes (List.replicate 40 0xff))

def otherBytes : List Host.Cell := bytes (0x07 :: List.replicate 39 0xff)

theorem test_witness_BadFramesLeaveNoTrace :
    ∃ t u, exec (.decode .dec) badState = .next t ∧
      exec (.decode .dec) (badState.setBs otherBytes) = .next u ∧ badState.d.valid = true ∧
      nframesOf (.decode .dec) badState ≤ badState.build.maxFrames ∧
      nframesOf (.decode .dec) badState = 1 ∧
      (t.errInfo.extractLsb' 16 16).toNat = nframesOf (.decode .dec) badState ∧
      (u.errInfo.extractLsb' 16 16).toNat = nframesOf (.decode .dec) badState :=
  ⟨_, _, eq_next (by decide +kernel), eq_next (by decide +kernel), by decide, by decide +kernel,
    by decide +kernel, by decide +kernel, by decide +kernel⟩

theorem drpRows (r : Nat) (h : r ≤ 27) :
    vget tRom.drpTree r = drpNodes ∧ vget tRom.drpLen r = drpLens ∧
      vget tRom.drpCode r = drpCodes := by
  have h' : r < 28 := by omega
  simp [tRom, vget_vgen, h']

theorem test_envelopeCodeWf_tRom : envelopeCodeWf tRom := by
  intro r _ h2
  obtain ⟨h3, h4, h5⟩ := drpRows r h2
  have e : drpTreeAt tRom r = vget drpNodes := by funext n; simp [drpTreeAt, h3]
  rw [e]
  simp only [drpCodeBits, h4, h5]
  unfold treeWf
  decide +kernel

/-- The header of scenario E7 to send: symbols `[1, 3, 12 x12]`, control value 15. -/
def headerState : State :=
  let s := symState (1 :: 3 :: List.replicate 12 12)
  s.setW { s.w with catctl := 15 }

theorem test_witness_FrameHeaderSurvivesTheWire :
    envelopeCodeWf headerState.build.rom ∧
    (legalRate headerState.e.rate.toNat = true ∧ headerState.d.rate = headerState.e.rate ∧
      headerState.d.mode = headerState.e.mode ∧ headerState.w.ferr = 0#4) ∧
    (∀ r < headerState.e.mode.nreg, 1 ≤ r → (vget headerState.w.sym r).val < 24) ∧
    headerState.w.catctl.val < headerState.e.mode.nposs ∧
    envelopeLength headerState.build.rom (fun r => (vget headerState.w.sym r).val)
      headerState.e.mode.nreg + headerState.e.mode.ccbits ≤ encBpf headerState ∧
    ∃ t, runAll [exec .pwrEnc, exec .bsWinit, exec .pack, exec .bsFlush, exec .bsRinit, exec .pwrDec]
      headerState = .next t :=
  ⟨test_envelopeCodeWf_tRom, by decide +kernel, by decide +kernel, by decide +kernel,
    by decide +kernel, ⟨_, eq_next (by decide +kernel)⟩⟩

theorem test_witness_IdleAndCommandCheck :
    checkCommand 0x01000000#32 { nbState 24000 48000 with arg1 := 32000#32 } =
      .ok (.init .enc, 0) ∧
    checkCommand 0x00000000#32 tState = .error .illCmd := by decide +kernel

theorem last_unwritten : Memory.read ((nbState 24000 0).setPcm (samples 319)).pcm 319 = none := by
  simp [State.setPcm, read_samples]

/-- Ready, missing at the first sample, missing at the last, outside the capacity. -/
theorem test_witness_LoadPcm :
    let s := (nbState 24000 0).setPcm (samples 320)
    let u := (nbState 24000 0).setPcm (samples 319)
    (s.seq.frame * s.e.mode.blk = 0 ∧ samplesReady s 0 s.e.mode.blk ∧ s.e.mode.blk ≤ pcmCap s) ∧
    (Memory.read (nbState 24000 0).pcm 0 = none ∧ 0 < pcmCap u) ∧
    (samplesReady u 0 319 ∧ 319 < pcmCap u ∧ Memory.read u.pcm 319 = none) ∧
    pcmCap u ≤ (u.setFrame 2).seq.frame * (u.setFrame 2).e.mode.blk :=
  ⟨⟨by decide +kernel, samplesReady_samples (by decide +kernel), by decide +kernel⟩,
    by decide +kernel,
    ⟨samplesReady_samples (Nat.le_refl _), by decide +kernel, last_unwritten⟩, by decide +kernel⟩

theorem test_witness_StorePcm :
    let s := nbState 24000 0
    let u := s.setFrame 1
    u.seq.frame * u.d.mode.blk + u.d.mode.blk ≤ pcmCap u ∧
      pcmCap s < (s.setFrame 2).seq.frame * s.d.mode.blk + s.d.mode.blk ∧
      u.build.backend = .fixed ∧ (float u).build.backend = .float := by decide +kernel

/-- A packer with `res` pending bits at byte `ptr`, and a field width. -/
def packState (res ptr nbits : Nat) : State :=
  let s := nbState 24000 0
  (s.setE { s.e with bw := { acc := 0x55#32, res := res, ptr := ptr } }).setPort
    { s.port with nbits := nbits }

/-- Widths 1 and 32, nothing written, the last byte of the buffer written. -/
theorem test_witness_BsPut :
    let a := packState 0 0 1
    let b := packState 7 116 32
    (1 ≤ a.port.nbits ∧ a.port.nbits ≤ 32 ∧ a.e.bw.res ≤ 7 ∧ (a.e.bw.res + a.port.nbits) / 8 = 0) ∧
    (1 ≤ b.port.nbits ∧ b.port.nbits ≤ 32 ∧ b.e.bw.res ≤ 7 ∧
      b.e.bw.ptr + (b.e.bw.res + b.port.nbits) / 8 ≤ bsCap b) := by decide +kernel

theorem test_witness_FieldWidths :
    (packState 0 0 0).port.nbits = 0 ∧ 33 ≤ (packState 0 0 33).port.nbits ∧
    (let b := packState 7 117 32
     1 ≤ b.port.nbits ∧ b.port.nbits ≤ 32 ∧ 8 ≤ b.e.bw.res + b.port.nbits ∧
      bsCap b < b.e.bw.ptr + (b.e.bw.res + b.port.nbits) / 8) := by decide +kernel

theorem test_witness_BsFlush :
    (packState 0 0 1).e.bw.res = 0 ∧
    (1 ≤ (packState 7 119 1).e.bw.res ∧ (packState 7 119 1).e.bw.res ≤ 7 ∧
      (packState 7 119 1).e.bw.ptr < bsCap (packState 7 119 1)) ∧
    (1 ≤ (packState 1 120 1).e.bw.res ∧ bsCap (packState 1 120 1) ≤ (packState 1 120 1).e.bw.ptr) := by
  decide +kernel

/-- A reader with `res` held bits at byte `ptr`, over four written bytes. -/
def readState (res ptr nbits : Nat) : State :=
  let s := (nbState 24000 0).setBs (bytes [1, 2, 3, 4])
  (s.setD { s.d with br := { acc := 0x5A5A5A5A#32, res := res, ptr := ptr, rem := 0 } }).setPort
    { s.port with nbits := nbits }

/-- All 32 bits from memory; 32 with 31 held; one held bit, nothing fetched; an unwritten byte. -/
theorem test_witness_BsGet :
    let a := readState 0 0 32
    let b := readState 31 3 32
    let c := readState 1 4 1
    let d := readState 0 4 1
    (1 ≤ a.port.nbits ∧ a.port.nbits ≤ 32 ∧ a.d.br.res ≤ 31 ∧
      bytesReady a a.d.br.ptr ((a.port.nbits - a.d.br.res + 7) / 8)) ∧
    (b.d.br.res ≤ 31 ∧ bytesReady b b.d.br.ptr ((b.port.nbits - b.d.br.res + 7) / 8) ∧
      b.d.br.ptr + (b.port.nbits - b.d.br.res + 7) / 8 ≤ bsCap b) ∧
    (bytesReady c c.d.br.ptr ((c.port.nbits - c.d.br.res + 7) / 8) ∧
      (c.port.nbits - c.d.br.res + 7) / 8 = 0) ∧
    (0 < (d.port.nbits - d.d.br.res + 7) / 8 ∧ d.d.br.ptr < bsCap d ∧
      Memory.read (w := 8) d.bs d.d.br.ptr = none) :=
  ⟨⟨by decide, by decide, by decide, bytesReady_of_all (by decide +kernel)⟩,
    ⟨by decide, bytesReady_of_all (by decide +kernel), by decide +kernel⟩,
    ⟨bytesReady_of_all (by decide +kernel), by decide⟩, by decide +kernel⟩

/-- The frame of E7 with the reader at its start, after three bits, and at its end. -/
def frameStart : State :=
  let s := (nbState 24000 0).setBs frameE7
  s.setD { s.d with br := br0 480 }

def frameMiddle : State :=
  frameStart.setD { frameStart.d with br := { acc := 0x0F#32, res := 5, ptr := 1, rem := 477 } }

def frameOver : State :=
  frameStart.setD { frameStart.d with br := { acc := 0xFF#32, res := 0, ptr := 60, rem := 0 } }

theorem test_frames_ready :
    frameReady frameStart 0 480 ∧ frameReady frameMiddle 0 480 ∧ frameReady frameOver 0 480 :=
  ⟨⟨by decide, bytesReady_of_all (by decide +kernel), by decide +kernel⟩,
    ⟨by decide, bytesReady_of_all (by decide +kernel), by decide +kernel⟩,
    ⟨by decide, bytesReady_of_all (by decide +kernel), by decide +kernel⟩⟩

theorem test_witness_GuardedReads :
    frameReady frameStart 0 480 ∧ frameReady frameMiddle 0 480 ∧ frameReady frameOver 0 480 ∧
    readerAt frameStart.bs frameStart.d.br 0 480 ∧ readerAt frameMiddle.bs frameMiddle.d.br 0 480 ∧
    readerAt frameOver.bs frameOver.d.br 0 480 ∧
    ((480 : Nat) : Int) ≤ frameStart.d.br.rem ∧ frameOver.d.br.rem < ((1 : Nat) : Int) :=
  ⟨test_frames_ready.1, test_frames_ready.2.1, test_frames_ready.2.2,
    by unfold readerAt; decide +kernel, by unfold readerAt; decide +kernel,
    by unfold readerAt; decide +kernel, by decide +kernel, by decide +kernel⟩

/-- Both backends exist (for the statements with a clause for each). -/
theorem test_witness_backends :
    (nbState 24000 0).build.backend = .fixed ∧ (float (nbState 24000 0)).build.backend = .float := by
  decide

/-- Tables of one element. -/
def constTables (x : FVal) : NumTables FVal where
  winAnaNb := Vector.replicate _ x
  winAnaWb := Vector.replicate _ x
  winSynNb := Vector.replicate _ x
  winSynWb := Vector.replicate _ x
  coreFwdNb := Vector.replicate _ (Vector.replicate _ x)
  coreFwdWb := Vector.replicate _ (Vector.replicate _ x)
  coreInvNb := Vector.replicate _ (Vector.replicate _ x)
  coreInvWb := Vector.replicate _ (Vector.replicate _ x)
  cs20 := Vector.replicate _ (x, x)
  cs40 := Vector.replicate _ (x, x)
  cs80 := Vector.replicate _ (x, x)
  cs160 := Vector.replicate _ (x, x)
  cs320 := Vector.replicate _ (x, x)
  cs640 := Vector.replicate _ (x, x)
  sd := Vector.replicate _ x
  sdInv := Vector.replicate _ x
  stepInv := Vector.replicate _ x
  centroid := Vector.replicate _ (Vector.replicate _ x)
  noise := Vector.replicate _ x

/-- A ROM whose `FLOAT` entries are all `toF(0)`, a finite value. -/
def finiteRom : Rom :=
  { tRom with
    flt := constTables (Config.fOfInt 0)
    floatOnly :=
      { pwrBound := Vector.replicate _ (Config.fOfInt 0), dz := Vector.replicate _ (Config.fOfInt 0)
        kFwdNb := Config.fOfInt 0, kFwdWb := Config.fOfInt 0, kInvNb := Config.fOfInt 0
        kInvWb := Config.fOfInt 0 } }

theorem test_floatFinite_finiteRom : floatFinite finiteRom := by
  refine ⟨?_, ?_, ?_, ?_, ?_, ?_, ?_, ?_, ?_⟩
  · intro m i hi k hk
    cases m <;> simp [finiteRom, constTables, NumTables.coreFwd, NumTables.coreInv, hi, hk]
  · intro span hs k hk
    simp only [List.mem_cons, List.not_mem_nil, or_false] at hs
    rcases hs with rfl | rfl | rfl | rfl | rfl | rfl <;>
      (norm_num at hk; simp [finiteRom, constTables, NumTables.cosmsin, hk])
  · intro m
    cases m <;> simp [finiteRom, FloatTables.kFwd, FloatTables.kInv]
  · intro m k hk
    cases m <;> simp only [Mode.blk] at hk <;>
      simp [finiteRom, constTables, NumTables.winAna, NumTables.winSyn, hk]
  · intro k hk; simp [finiteRom, constTables, hk]
  · intro k hk; simp [finiteRom, constTables, hk]
  · intro c hc k hk
    have := test_categoryWf_tRom.2.1 c hc
    have hk' : k < 14 := by have : k ≤ vget tRom.kmax c := hk; omega
    simp [finiteRom, constTables, hc, hk']
  · intro k hk; simp [finiteRom, constTables, hk]
  · intro k hk; simp [finiteRom, hk]

/-- Zero inputs in both backends, and tables for which the `FIXED` inverse of zero is zero. -/
theorem test_witness_TransformsOfZero :
    let s := nbState 24000 0
    let zeros : SigReg 640 :=
      { fx := Vector.replicate 640 0#16, fl := Vector.replicate 640 (Config.fOfInt 0) }
    let u := (float (withRom finiteRom s)).setW { s.w with x := zeros, coef := zeros }
    (∀ k < s.e.mode.blk, vget s.w.x.fx k = 0#16) ∧ (∀ k < s.d.mode.blk, vget s.w.coef.fx k = 0#16) ∧
    (∀ k < s.d.mode.blk, s.build.rom.fixedOnly.dither s.d.mode k = 0#16) ∧
    (∀ k < 320, vget s.build.rom.fixedOnly.synBias k = 0#16) ∧
    u.build.backend = .float ∧ floatFinite u.build.rom ∧
    (∀ k < u.e.mode.blk, Config.fKind (vget u.w.x.fl k) = .number 0) ∧
    ∀ k < u.d.mode.blk, Config.fKind (vget u.w.coef.fl k) = .number 0 := by
  refine ⟨fun k hk => ?_, fun k hk => ?_, fun k hk => ?_, fun k hk => ?_, rfl,
    test_floatFinite_finiteRom, fun k hk => ?_, fun k hk => ?_⟩ <;>
  · have h : k < 320 := hk
    have h' : k < 640 := by omega
    first
    | (simp [State.setW, h']; done)
    | (simp [nbState, tState, State.reset, SigReg.zeros, h']; done)
    | (change vget (Vector.replicate 320 0#16) k = 0#16; simp [show ¬ 320 ≤ k by omega])

/-- First and last element of a set, first and last stage of `N = 320`. -/
theorem test_witness_TransformStages :
    (320 / 2 ^ 0 * 2 ^ 0 = 320 ∧ 320 / 2 ^ 0 % 2 = 0 ∧ 0 < 2 ^ 0 ∧ 159 < 320 / 2 ^ 0 / 2) ∧
    (320 / 2 ^ 4 * 2 ^ 4 = 320 ∧ 320 / 2 ^ 4 % 2 = 0 ∧ 15 < 2 ^ 4 ∧ 9 < 320 / 2 ^ 4 / 2) ∧
    (640 / 2 ^ 5 * 2 ^ 5 = 640 ∧ 640 / 2 ^ 5 % 4 = 0 ∧ 31 < 2 ^ 5 ∧ 4 < 640 / 2 ^ 5 / 4) := by decide

theorem test_witness_SuggestedHeadroom :
    tRom.fixedOnly.hrFull = 14000#16 ∧ tRom.fixedOnly.hrSmall = 438#16 ∧
    tRom.fixedOnly.hrMul = 9587#16 ∧ tRom.fixedOnly.hrShr = 20#16 ∧ tRom.fixedOnly.hrZero = 9#16 ∧
    tRom.fixedOnly.hrBias = 6#16 ∧ tRom.fixedOnly.hrAvgShr = 7#16 ∧ (0 : Int) ≤ 0 ∧
    (32767 : Int) ≤ 32767 := by decide +kernel

theorem test_witness_PwrEst :
    let s := nbState 24000 0
    let u := s.setW { s.w with magsh := toI16 (-100) }
    let v := s.setW { s.w with magsh := toI16 100 }
    u.build.backend = .fixed ∧ -100 ≤ u.w.magsh.toInt ∧ v.w.magsh.toInt ≤ 100 ∧
      (∀ k < 20, vget s.w.coef.fx (20 * 13 + k) = 0#16) := by decide +kernel

/-- An energy of 1 and a saturated one, with the position of their top bit. -/
theorem test_witness_PwrEst_energy :
    let energy (l : List Int) : Int := min 2147483647
      ((List.range 20).map fun k => (vget (sig l).fx k).toInt ^ 2).sum
    (2 ^ 0 ≤ energy [-1] ∧ energy [-1] < 2 ^ 1) ∧
    (2 ^ 30 ≤ energy [-32768, -32768] ∧ energy [-32768, -32768] < 2 ^ 31) := by decide +kernel

/-- A list that the valley raise leaves alone. -/
theorem test_witness_ValleyRaise :
    ∀ r, r + 1 < [0, 11, 22].length → lget [0, 11, 22] (r + 1) - lget [0, 11, 22] r ≤ (11 : Int) := by
  intro r h
  have : r < 2 := by simp at h; omega
  interval_cases r <;> decide

theorem test_witness_PwrDec :
    frameReady frameStart 0 480 ∧ readerAt frameStart.bs frameStart.d.br 0 480 ∧
    frameReady frameOver 0 480 ∧ readerAt frameOver.bs frameOver.d.br 0 480 ∧
    ∀ r, 1 ≤ r → r ≤ 27 → treeWf (drpTreeAt frameStart.build.rom r) 23 24 :=
  ⟨test_frames_ready.1, test_witness_GuardedReads.2.2.2.1, test_frames_ready.2.2,
    test_witness_GuardedReads.2.2.2.2.2.1, fun r h1 h2 => (test_envelopeCodeWf_tRom r h1 h2).1⟩

/-- On the wire: the steps of scenario E7 and what follows them; a string that ends in the third region's code; a
frame with no bit left. -/
theorem test_witness_PwrDec_wire :
    let bits := leftBits frameStart.bs frameStart.d.br 0 480
    (5 ≤ bits.length ∧ (wireSteps tRom 13 1 (bits.drop 5)).1 = 3 :: List.replicate 12 12 ∧
      ((wireSteps tRom 13 1 (bits.drop 5)).2.map List.length) = some 445) ∧
    wireSteps tRom 13 1 [false, true, false, true] = ([12, 11], none) ∧
    (leftBits frameOver.bs frameOver.d.br 0 480).length < 5 := by decide +kernel

theorem test_witness_BudgetAndOffsetSearch :
    expbitsWf tRom ∧ (320 : Int) ≤ Mode.blk .nb ∧ ((Mode.blk .nb : Nat) : Int) < 321 := by
  unfold expbitsWf; decide +kernel

theorem test_witness_Categorize :
    let s := nbState 24000 0
    let t := s.setW { s.w with magsh := 5#16 }
    (∃ u, exec .categorize s = .next u) ∧ (∃ u, exec .categorize t = .next u) ∧
      runMode s = runMode t ∧ s.w.avail = t.w.avail ∧
      s.build.rom.expbits = t.build.rom.expbits ∧
      ∀ r < (runMode s).nreg, vget s.w.abs r = vget t.w.abs r :=
  ⟨⟨_, rfl⟩, ⟨_, rfl⟩, rfl, rfl, rfl, fun _ _ => rfl⟩

theorem test_witness_RateAdj :
    ∀ k < (k1State 0).e.mode.nposs - 1, (vget (k1State 0).w.bal k).val < (k1State 0).e.mode.nreg := by
  decide +kernel

theorem test_categoryWf_codeRom : categoryWf codeRom := by
  unfold categoryWf indexCount; decide +kernel

theorem test_vectorCodeWf_codeRom : vectorCodeWf codeRom := by
  have e : ∀ c < 7, vget codeRom.vqTree c = tree6 ∧ vget codeRom.vqLen c = List.replicate 32 5 ∧
      vget codeRom.vqCode c = List.range 32 ∧ vget codeRom.vdim c = 5 ∧ indexCount codeRom c = 32 := by
    decide +kernel
  intro c hc
  obtain ⟨h1, h2, h3, h4, h5⟩ := e c hc
  have t : vqTreeAt codeRom c = lget tree6 := by funext n; simp [vqTreeAt, h1]
  rw [t]
  simp only [vqCodeBits, h1, h2, h3, h4, h5]
  unfold treeWf
  decide +kernel

theorem test_witness_VqEnc :
    categoryWf (withRom codeRom (q7State [])).build.rom ∧
    vectorCodeWf (withRom codeRom (q7State [])).build.rom ∧
    (let s := q7State []
     let u := s.setW { s.w with cat := vgen 28 fun _ => 7 }
     (vget u.w.cat u.seq.region.val).val = 7 ∧ (vget s.w.cat s.seq.region.val).val < 7) :=
  ⟨test_categoryWf_codeRom, test_vectorCodeWf_codeRom, by decide +kernel⟩

theorem test_witness_Decomposition :
    categoryWf tRom ∧ (7 : Nat) < 8 ∧ [13, 13].length = vget tRom.vdim 0 ∧
    (∀ k ∈ [13, 13], k ≤ vget tRom.kmax 0) ∧ [4, 0, 4, 4].length = vget tRom.vdim 3 ∧
    (∀ k ∈ [4, 0, 4, 4], k ≤ vget tRom.kmax 3) :=
  ⟨test_categoryWf_tRom, by decide, by decide +kernel, by decide +kernel, by decide +kernel,
    by decide +kernel⟩

/-- Category 7; category 6 with bits in the frame; category 6 with none left. -/
theorem test_witness_VqDec :
    let c (k : Fin 8) (s : State) := s.setW { s.w with cat := vgen 28 fun _ => k }
    frameReady (c 7 frameStart) 0 480 ∧ readerAt frameStart.bs frameStart.d.br 0 480 ∧
    frameReady (c 6 frameOver) 0 480 ∧ readerAt frameOver.bs frameOver.d.br 0 480 ∧
    categoryWf frameStart.build.rom ∧
    (vget (c 7 frameStart).w.cat (c 7 frameStart).seq.region.val).val = 7 ∧
    (vget (c 6 frameOver).w.cat (c 6 frameOver).seq.region.val).val < 7 :=
  ⟨test_frames_ready.1, test_witness_GuardedReads.2.2.2.1, test_frames_ready.2.2,
    test_witness_GuardedReads.2.2.2.2.2.1, test_categoryWf_tRom, by decide +kernel,
    by decide +kernel⟩

/-- On the wire: Q7's four vectors and two bits more; two whole vectors and a third that ends inside its signs;
no bit at all. -/
theorem test_witness_VqDec_wire :
    wireVectors tRom 6 4 (q7Bits ++ [true, true]) =
      ([⟨[0, 0, 1, 0, 0], [false]⟩, ⟨[0, 0, 0, 0, 0], []⟩, ⟨[0, 0, 0, 0, 0], []⟩,
        ⟨[0, 0, 0, 0, 1], [false]⟩], some [true, true]) ∧
    wireVectors tRom 6 4 (q7Bits.take 11 ++ [false, false, false, true, true, true]) =
      ([⟨[0, 0, 1, 0, 0], [false]⟩, ⟨[0, 0, 0, 0, 0], []⟩], none) ∧
    leftBits frameStart.bs frameStart.d.br 0 480 =
      (streamBits frameStart.bs 0 480).map (fun b => b.getD false) ∧
    (wireVectors tRom 6 4 (leftBits frameOver.bs frameOver.d.br 0 480)).2 = none := by
  decide +kernel

theorem test_witness_NoiseFill :
    let c (k : Fin 8) (s : State) := s.setW { s.w with cat := vgen 28 fun _ => k }
    let cat (s : State) := (vget s.w.cat s.seq.region.val).val
    cat (c 4 tState) < 5 ∧ 5 ≤ cat (c 5 tState) ∧ cat (c 7 tState) = 7 ∧
      5 ≤ cat (c 7 (float tState)) ∧
      (vget (q7State [5]).w.coef.fx 0 ≠ 0#16 ∧ vget (q7State [5]).w.coef.fx 19 = 0#16) := by
  decide +kernel

/-- A frame that just fits the buffer, and one that starts one byte too late. -/
theorem test_witness_Pack :
    let a := packState 0 60 1
    let b := packState 0 61 1
    (a.e.bw.res = 0 ∧ encBpf a % 8 = 0 ∧ a.e.bw.ptr + encBpf a / 8 ≤ bsCap a) ∧
    (b.e.bw.res = 0 ∧ encBpf b % 8 = 0 ∧ 0 < encBpf b ∧ bsCap b < b.e.bw.ptr + encBpf b / 8) := by
  decide +kernel

theorem test_witness_FrameCheck :
    let u := frameStart.setD { frameStart.d with br := br0 (-1) }
    frameReady frameMiddle 0 480 ∧ readerAt frameMiddle.bs frameMiddle.d.br 0 480 ∧
    frameReady u 0 480 ∧ u.d.br.rem < 0 ∧
    frameReady frameOver 0 480 ∧ readerAt frameOver.bs frameOver.d.br 0 480 ∧ frameOver.d.br.rem = 0 :=
  ⟨test_frames_ready.2.1, test_witness_GuardedReads.2.2.2.2.1, test_frames_ready.1, by decide,
    test_frames_ready.2.2, test_witness_GuardedReads.2.2.2.2.2.1, rfl⟩

theorem test_witness_Conceal :
    frameStart.w.ferr = 0#4 ∧
    (frameStart.setW { frameStart.w with ferr := 8#4 }).w.ferr ≠ 0#4 := by decide +kernel

theorem test_witness_HostAccesses :
    let s := (nbState 24000 0).setPcm (samples 1)
    let u := s.setBs (bytes [5])
    u.seq.phase = 0x00#8 ∧ (pend (.regRead 0x0C 32) u).host.pending = .regRead 0x0C 32 :: [] ∧
    (0 < pcmCap u ∧ Memory.read u.pcm 0 = some 0#16 ∧ 639 < pcmCap u ∧
      Memory.read u.pcm 639 = none) ∧
    (0 < bsCap u ∧ Memory.read (w := 8) u.bs 0 = some 5#8 ∧ 119 < bsCap u ∧
      Memory.read (w := 8) u.bs 119 = none) ∧
    pcmCap u ≤ 640 ∧ bsCap u ≤ 120 := by decide +kernel

/-- The boundary values of each clause: 1, -1, the ends of the ranges. -/
theorem test_witness_Normalization :
    (∀ v ∈ ([1, 32767, -1, -2, -32768] : List Int), i v ≠ 0#16 ∧ j v ≠ 0#32) ∧
    0 < (i 1).toInt ∧ (i (-2)).toInt < -1 ∧ (i (-1)).toInt = -1 ∧ 0 < (j 2147483647).toInt ∧
    (j (-2147483648)).toInt < -1 ∧ (j (-1)).toInt = -1 := by decide +kernel

theorem test_witness_BasicOperations :
    (0 : Int) ≤ 0 ∧ (0 : Int) ≤ 40 ∧ (0 : Nat) < 1 ∧ (0 : Nat) < 40 := by decide

end Sys2Proof.Tests
end

section
/-! PROOF. What each micro-operation may write, and that the packer and `STORE_PCM` keep the buffers in
canonical form inside their capacities. -/

namespace Sys2Proof.Machine

/-! ## The packer's writes -/

/-- A buffer in canonical form with every address below `cap` (20_memory.md R70). -/
def Memory.Sound {w : Nat} (m : Memory w) (cap : Nat) : Prop :=
  Memory.wf m = true ∧ Memory.within m cap = true

theorem Memory.Sound.write {w : Nat} {m : Memory w} {cap a : Nat} (h : Memory.Sound m cap)
    (v : BitVec w) (ha : a < cap) : Memory.Sound (Memory.write m a v) cap :=
  ⟨Memory.wf_write a v h.1, Memory.within_write v h.2 ha⟩

theorem drain_ptr (k : Nat) (bw : BitWriter) (m : List Host.Cell) :
    (drain k bw m).1.ptr = bw.ptr + k := by
  induction k generalizing bw m with
  | zero => rfl
  | succ k ih => rw [drain, ih]; simp only; omega

theorem drain_res (k : Nat) (bw : BitWriter) (m : List Host.Cell) :
    (drain k bw m).1.res = bw.res - 8 * k := by
  induction k generalizing bw m with
  | zero => rfl
  | succ k ih => rw [drain, ih]; simp only; omega

/-- The drained bytes go to the `k` addresses from `PTR` on. -/
theorem drain_sound (k : Nat) (bw : BitWriter) {m : List Host.Cell} {cap : Nat}
    (h : Memory.Sound (w := 8) m cap) (hk : k = 0 ∨ bw.ptr + k ≤ cap) :
    Memory.Sound (w := 8) (drain k bw m).2 cap := by
  induction k generalizing bw m with
  | zero => exact h
  | succ k ih => exact ih _ (h.write _ (by omega)) (by simp only; omega)

theorem putNarrow_ptr (value : Word) (n : Nat) (bw : BitWriter) (m : List Host.Cell) :
    (putNarrow value n bw m).1.ptr = bw.ptr + (bw.res + n) / 8 := drain_ptr _ _ _

theorem putNarrow_res (value : Word) (n : Nat) (bw : BitWriter) (m : List Host.Cell) :
    (putNarrow value n bw m).1.res = (bw.res + n) % 8 := by
  rw [putNarrow, drain_res]; simp only; omega

theorem putNarrow_sound (value : Word) (n : Nat) (bw : BitWriter) {m : List Host.Cell} {cap : Nat}
    (h : Memory.Sound (w := 8) m cap) (hk : (bw.res + n) / 8 = 0 ∨ bw.ptr + (bw.res + n) / 8 ≤ cap) :
    Memory.Sound (w := 8) (putNarrow value n bw m).2 cap := drain_sound _ _ h hk

theorem putField_ptr (value : Word) (n : Nat) (bw : BitWriter) (m : List Host.Cell) :
    (putField value n bw m).1.ptr = bw.ptr + (bw.res + n) / 8 := by
  rw [putField]
  split
  · exact putNarrow_ptr _ _ _ _
  · simp only [putNarrow_ptr, putNarrow_res]; omega

theorem putField_res (value : Word) (n : Nat) (bw : BitWriter) (m : List Host.Cell) :
    (putField value n bw m).1.res = (bw.res + n) % 8 := by
  rw [putField]
  split
  · exact putNarrow_res _ _ _ _
  · simp only [putNarrow_res]; omega

theorem putField_sound (value : Word) (n : Nat) (bw : BitWriter) {m : List Host.Cell} {cap : Nat}
    (h : Memory.Sound (w := 8) m cap) (hk : (bw.res + n) / 8 = 0 ∨ bw.ptr + (bw.res + n) / 8 ≤ cap) :
    Memory.Sound (w := 8) (putField value n bw m).2 cap := by
  rw [putField]
  split
  · exact putNarrow_sound _ _ _ h hk
  · refine putNarrow_sound _ _ _ (putNarrow_sound _ _ _ h (by omega)) ?_
    simp only [putNarrow_ptr, putNarrow_res]
    omega

theorem putBits_sound (bits : List Bool) (bw : BitWriter) {m : List Host.Cell} {cap : Nat}
    (h : Memory.Sound (w := 8) m cap)
    (hk : (bw.res + bits.length) / 8 = 0 ∨ bw.ptr + (bw.res + bits.length) / 8 ≤ cap) :
    Memory.Sound (w := 8) (putBits bits bw m).2 cap := by
  induction bits generalizing bw m with
  | nil => exact h
  | cons b bits ih =>
    simp only [List.length_cons] at hk
    refine ih _ (putField_sound _ _ _ h (by omega)) ?_
    simp only [putField_ptr, putField_res]
    omega

theorem flushBits_sound (bw : BitWriter) {m : List Host.Cell} {cap : Nat}
    (h : Memory.Sound (w := 8) m cap) (hk : 0 < bw.res → bw.ptr + 1 ≤ cap) :
    Memory.Sound (w := 8) (flushBits bw m).2 cap := by
  rw [flushBits]
  split
  next hres => exact h.write _ (hk hres)
  next => exact h

theorem roomFor_iff (s : State) (k : Nat) :
    roomFor s k = true ↔ k = 0 ∨ s.e.bw.ptr + k ≤ bsCap s := by
  simp [roomFor]

/-! ## When a micro-operation answers, and what -/

theorem execLoadPcm_next {s t : State} (h : execLoadPcm s = .next t) :
    ∃ v, t = s.setW { s.w with pcm := v } := by
  unfold execLoadPcm at h
  dsimp only at h
  split at h
  · cases h
  · cases h; exact ⟨_, rfl⟩

theorem execStorePcm_next {s t : State} (h : execStorePcm s = .next t) :
    s.seq.frame * s.d.mode.blk + s.d.mode.blk ≤ pcmCap s ∧
      t = s.setPcm (Memory.writeList s.pcm (s.seq.frame * s.d.mode.blk) (outSamples s s.d.mode.blk)) := by
  unfold execStorePcm at h
  dsimp only at h
  split at h
  next hcap => cases h; exact ⟨hcap, rfl⟩
  next => cases h

theorem execBsPut_next {s t : State} (h : execBsPut s = .next t) :
    roomFor s (bytesOf s.e.bw s.port.nbits) = true ∧
      t = s.afterPut (putField s.port.value s.port.nbits s.e.bw s.bs) := by
  unfold execBsPut at h
  split at h
  · split at h
    next hroom => cases h; exact ⟨hroom, rfl⟩
    next => cases h
  · cases h

theorem execBsGet_next {s t : State} (h : execBsGet s = .next t) :
    ∃ v br, t = (s.setD { s.d with br := br }).setPort { s.port with result := v } := by
  unfold execBsGet at h
  split at h
  · split at h
    · cases h
    · cases h; exact ⟨_, _, rfl⟩
  · cases h

theorem execBsFlush_next {s t : State} (h : execBsFlush s = .next t) :
    roomFor s (if s.e.bw.res > 0 then 1 else 0) = true ∧ t = s.afterPut (flushBits s.e.bw s.bs) := by
  unfold execBsFlush at h
  cases hroom : roomFor s (if s.e.bw.res > 0 then 1 else 0) with
  | false => rw [hroom] at h; cases h
  | true => rw [hroom] at h; cases h; exact ⟨rfl, rfl⟩

theorem execPack_next {s t : State} (h : execPack s = .next t) :
    ∃ bits, roomFor s (bytesOf s.e.bw bits.length) = true ∧
      t = (s.setW { s.w with framebits := bits }).afterPut (putBits bits s.e.bw s.bs) := by
  unfold execPack at h
  dsimp only at h
  split at h
  next hroom => cases h; exact ⟨_, hroom, rfl⟩
  next => cases h

/-- `PWR_DEC` writes the power indices, the control value and the flags. -/
theorem readHeader_ok {rd : Nat → Except Fault Byte} {rom : Rom} {m : Mode} {w w' : WorkRegs}
    {br br' : BitReader} (h : readHeader rd rom m w br = .ok (w', br')) :
    ∃ abs catctl ferr, w' = { w with abs := abs, catctl := catctl, ferr := ferr } := by
  unfold readHeader at h
  split at h
  · cases h
  · cases h; exact ⟨_, _, _, rfl⟩
  · split at h
    · cases h
    · cases h; exact ⟨_, _, _, rfl⟩
    · split at h <;> cases h <;> exact ⟨_, _, _, rfl⟩

theorem execPwrDec_next {s t : State} (h : execPwrDec s = .next t) :
    ∃ abs catctl ferr br,
      t = (s.setW { s.w with abs := abs, catctl := catctl, ferr := ferr }).setD
        { s.d with br := br } := by
  unfold execPwrDec at h
  split at h
  next => cases h
  next heq =>
    cases h
    obtain ⟨abs, catctl, ferr, rfl⟩ := readHeader_ok heq
    exact ⟨abs, catctl, ferr, _, rfl⟩

/-- `VQ_DEC` writes the region's coefficients, and the flag and the categories of an underrun. -/
theorem execVqDec_next {s t : State} (h : execVqDec s = .next t) :
    ∃ coef underrun cat br,
      t = (s.setW { s.w with coef := coef, underrun := underrun, cat := cat }).setD
        { s.d with br := br } := by
  unfold execVqDec at h
  dsimp only at h
  split at h
  · cases h; exact ⟨_, _, _, _, rfl⟩
  · split at h
    · cases h
    · cases h; exact ⟨_, _, _, _, rfl⟩
    · cases h; exact ⟨_, _, _, _, rfl⟩

theorem execNoiseFill_next {s t : State} (h : execNoiseFill s = .next t) :
    ∃ coef rand, t = (s.setW { s.w with coef := coef }).setD { s.d with rand := rand } := by
  unfold execNoiseFill at h
  dsimp only at h
  split at h <;> cases h <;> exact ⟨_, _, rfl⟩

theorem execFrameCheck_next {s t : State} (h : execFrameCheck s = .next t) :
    ∃ ferr br, t = (s.setW { s.w with ferr := ferr }).setD { s.d with br := br } := by
  unfold execFrameCheck at h
  dsimp only at h
  split at h
  · cases h
  · cases h; exact ⟨_, _, rfl⟩

/-! ## Footprints -/

/-- The registers the encoder's micro-operations write: `W`, the history and the cursor of side `E`, `BSBUF`
(10_state.md R29, R30, R36). -/
def EncWrites (s t : State) : Prop :=
  ∃ w hist bw m, t = { s with w := w, e := { s.e with hist := hist, bw := bw }, bs := m }

/-- The registers the decoder's micro-operations write: `W`, side `D` but its context's `VALID`, `MODE` and
`RATE`, `PCMBUF`, and the port of a called one (10_state.md R31 to R36). -/
def DecWrites (s t : State) : Prop :=
  ∃ w oldcoef oldshift oldsamp rand br m p,
    t = { s with
      w := w, pcm := m, port := p
      d := { s.d with
        oldcoef := oldcoef, oldshift := oldshift, oldsamp := oldsamp, rand := rand, br := br } }

/-- The micro-operations that write frame working registers and nothing else. -/
def workUops : List Instr :=
  [.loadPcm, .headroom, .dct4Fwd, .dct4Inv, .pwrEst, .pwrAdj, .pwrEnc, .sdShift, .categorize, .catReplay,
    .rateAdj, .vqEnc]

/-- The micro-operations of `ENCODE` (47_frame_commands.md R371) and those it calls. -/
def encoderUops : List Instr :=
  [.loadPcm, .winAna, .headroom, .dct4Fwd, .pwrEst, .pwrAdj, .pwrEnc, .categorize, .rateAdj, .bsWinit,
    .pack, .bsFlush, .bsPut, .vqEnc]

/-- The micro-operations of `FILL_IN` (R383). -/
def concealUops : List Instr := [.conceal, .dct4Inv, .winSyn, .storePcm]

/-- The micro-operations of `DECODE` (R376), those it calls, and `IDLE`. -/
def decoderUops : List Instr :=
  [.bsRinit, .pwrDec, .sdShift, .categorize, .catReplay, .vqDec, .noiseFill, .frameCheck, .bsGet, .rand,
    .idle] ++ concealUops

/-- Every micro-operation but `CMD_CHECK` is one of the two sides'. -/
theorem uop_side {i : Instr} (hi : i.isCommand = false) (hc : i ≠ .cmdCheck) :
    i ∈ encoderUops ∨ i ∈ decoderUops := by
  cases i with
  | init _ | setRate _ | encode _ | decode _ | fillIn _ | release _ => cases hi
  | cmdCheck => exact absurd rfl hc
  | loadPcm | winAna | headroom | dct4Fwd | pwrEst | pwrAdj | pwrEnc | categorize | rateAdj | bsWinit
  | pack | bsFlush | bsPut | vqEnc => exact .inl (by simp [encoderUops])
  | _ => exact .inr (by simp [decoderUops, concealUops])

/-- `EncWrites`, for a state that is written out. -/
theorem EncWrites.of_setW (s : State) (w : WorkRegs) : EncWrites s (s.setW w) := ⟨_, _, _, _, rfl⟩

theorem DecWrites.of_setW (s : State) (w : WorkRegs) : DecWrites s (s.setW w) :=
  ⟨_, _, _, _, _, _, _, _, rfl⟩

theorem workUop_writes {i : Instr} (hi : i ∈ workUops) {s t : State} (h : exec i s = .next t) :
    ∃ w, t = s.setW w := by
  cases i with
  | loadPcm => obtain ⟨v, rfl⟩ := execLoadPcm_next h; exact ⟨_, rfl⟩
  | headroom | dct4Fwd | dct4Inv | pwrEst | pwrAdj | pwrEnc | sdShift | categorize | catReplay | rateAdj
  | vqEnc => cases h; exact ⟨_, rfl⟩
  | _ => simp [workUops] at hi

theorem encoderUop_writes {i : Instr} (hi : i ∈ encoderUops) {s t : State} (h : exec i s = .next t) :
    EncWrites s t := by
  by_cases hw : i ∈ workUops
  · obtain ⟨w, rfl⟩ := workUop_writes hw h; exact .of_setW s w
  · cases i with
    | pack => obtain ⟨bits, -, rfl⟩ := execPack_next h; exact ⟨_, _, _, _, rfl⟩
    | bsFlush => obtain ⟨-, rfl⟩ := execBsFlush_next h; exact ⟨_, _, _, _, rfl⟩
    | bsPut => obtain ⟨-, rfl⟩ := execBsPut_next h; exact ⟨_, _, _, _, rfl⟩
    | winAna | bsWinit => cases h; exact ⟨_, _, _, _, rfl⟩
    | _ => simp [encoderUops, workUops] at hi hw

theorem decoderUop_writes {i : Instr} (hi : i ∈ decoderUops) {s t : State} (h : exec i s = .next t) :
    DecWrites s t := by
  by_cases hw : i ∈ workUops
  · obtain ⟨w, rfl⟩ := workUop_writes hw h; exact .of_setW s w
  · cases i with
    | pwrDec => obtain ⟨_, _, _, br, rfl⟩ := execPwrDec_next h; exact ⟨_, _, _, _, _, _, _, _, rfl⟩
    | vqDec => obtain ⟨_, _, _, br, rfl⟩ := execVqDec_next h; exact ⟨_, _, _, _, _, _, _, _, rfl⟩
    | noiseFill => obtain ⟨coef, rand, rfl⟩ := execNoiseFill_next h; exact ⟨_, _, _, _, _, _, _, _, rfl⟩
    | frameCheck => obtain ⟨ferr, br, rfl⟩ := execFrameCheck_next h; exact ⟨_, _, _, _, _, _, _, _, rfl⟩
    | storePcm => obtain ⟨-, rfl⟩ := execStorePcm_next h; exact ⟨_, _, _, _, _, _, _, _, rfl⟩
    | bsGet => obtain ⟨v, br, rfl⟩ := execBsGet_next h; exact ⟨_, _, _, _, _, _, _, _, rfl⟩
    | idle | bsRinit | conceal | winSyn | rand => cases h; exact ⟨_, _, _, _, _, _, _, _, rfl⟩
    | _ => simp [decoderUops, concealUops, workUops] at hi hw

/-- The micro-operations of `FILL_IN` leave the read cursor (R383). -/
theorem concealUop_br {i : Instr} (hi : i ∈ concealUops) {s t : State} (h : exec i s = .next t) :
    t.d.br = s.d.br := by
  cases i with
  | storePcm => obtain ⟨-, rfl⟩ := execStorePcm_next h; rfl
  | conceal | dct4Inv | winSyn => cases h; rfl
  | _ => simp [concealUops] at hi

/-- What `CMD_CHECK` answers is no new buffer. -/
theorem cmdCheck_next {s t : State} (h : exec .cmdCheck s = .next t) :
    (∃ err, checkCommand s.host.cmdWord s = .error err ∧ t = commandError err s) ∨
    (∃ i n, checkCommand s.host.cmdWord s = .ok (i, n) ∧ t = beginCommand s.host.cmdWord n s) := by
  cases h
  cases hc : checkCommand s.host.cmdWord s with
  | error err => exact .inl ⟨err, rfl, rfl⟩
  | ok p => exact .inr ⟨p.1, p.2, rfl, rfl⟩

/-- Only four micro-operations write a buffer (20_memory.md R78, R85). -/
theorem uop_buffers {i : Instr} (hi : i.isCommand = false)
    (hw : i ∉ [.storePcm, .bsPut, .bsFlush, .pack]) {s t : State} (h : exec i s = .next t) :
    t.pcm = s.pcm ∧ t.bs = s.bs := by
  by_cases hwork : i ∈ workUops
  · obtain ⟨w, rfl⟩ := workUop_writes hwork h; exact ⟨rfl, rfl⟩
  · cases i with
    | pwrDec => obtain ⟨_, _, _, br, rfl⟩ := execPwrDec_next h; exact ⟨rfl, rfl⟩
    | vqDec => obtain ⟨_, _, _, br, rfl⟩ := execVqDec_next h; exact ⟨rfl, rfl⟩
    | noiseFill => obtain ⟨coef, rand, rfl⟩ := execNoiseFill_next h; exact ⟨rfl, rfl⟩
    | frameCheck => obtain ⟨ferr, br, rfl⟩ := execFrameCheck_next h; exact ⟨rfl, rfl⟩
    | bsGet => obtain ⟨v, br, rfl⟩ := execBsGet_next h; exact ⟨rfl, rfl⟩
    | cmdCheck => obtain ⟨_, -, rfl⟩ | ⟨_, _, -, rfl⟩ := cmdCheck_next h <;> exact ⟨rfl, rfl⟩
    | idle | bsWinit | bsRinit | winAna | winSyn | rand | conceal => cases h; exact ⟨rfl, rfl⟩
    | _ => simp [Instr.isCommand, workUops] at hi hw hwork

theorem build_of_sides {s t : State} (h : EncWrites s t ∨ DecWrites s t) : t.build = s.build := by
  obtain ⟨_, _, _, _, rfl⟩ | ⟨_, _, _, _, _, _, _, _, rfl⟩ := h <;> rfl

theorem length_outSamples (s : State) (n : Nat) : (outSamples s n).length = n := by simp [outSamples]

/-- The four that write a buffer keep it in canonical form inside its capacity (R70, R81). -/
theorem bufferUop_keeps_sound {i : Instr} (hi : i ∈ [.storePcm, .bsPut, .bsFlush, .pack]) {s t : State}
    (hs : buffersSound s) (h : exec i s = .next t) : buffersSound t := by
  obtain ⟨hpw, hpc, hbw, hbc⟩ := hs
  have hbs : Memory.Sound (w := 8) s.bs (bsCap s) := ⟨hbw, hbc⟩
  cases i with
  | storePcm =>
    obtain ⟨hcap, rfl⟩ := execStorePcm_next h
    exact ⟨Memory.wf_writeList _ _ hpw, Memory.within_writeList _ _ hpc 
        (by rw [length_outSamples]; exact hcap),
      hbw, hbc⟩
  | bsPut =>
    obtain ⟨hroom, rfl⟩ := execBsPut_next h
    obtain ⟨hw, hc⟩ := putField_sound s.port.value _ _ hbs ((roomFor_iff _ _).mp hroom)
    exact ⟨hpw, hpc, hw, hc⟩
  | bsFlush =>
    obtain ⟨hroom, rfl⟩ := execBsFlush_next h
    obtain ⟨hw, hc⟩ := flushBits_sound s.e.bw hbs fun hres => by
      simpa [roomFor_iff, hres, Nat.ne_of_gt hres] using hroom
    exact ⟨hpw, hpc, hw, hc⟩
  | pack =>
    obtain ⟨bits, hroom, rfl⟩ := execPack_next h
    obtain ⟨hw, hc⟩ := putBits_sound bits s.e.bw hbs ((roomFor_iff _ _).mp hroom)
    exact ⟨hpw, hpc, hw, hc⟩
  | _ => simp at hi

/-- Every micro-operation keeps the buffers sound. -/
theorem uop_keeps_buffersSound {i : Instr} (hi : i.isCommand = false) (hc : i ≠ .cmdCheck) {s t : State}
    (hs : buffersSound s) (h : exec i s = .next t) : buffersSound t := by
  by_cases hw : i ∈ [.storePcm, .bsPut, .bsFlush, .pack]
  · exact bufferUop_keeps_sound hw hs h
  · obtain ⟨hp, hb⟩ := uop_buffers hi hw h
    have hbuild := build_of_sides
      ((uop_side hi hc).imp (encoderUop_writes · h) (decoderUop_writes · h))
    simpa only [buffersSound, pcmCap, bsCap, hp, hb, hbuild] using hs

end Sys2Proof.Machine
end

section
/-! PROOF. What the sequencer keeps: a property that its micro-operations and its own writes keep holds at the
end of a frame, of a frame loop and of a command. -/

namespace Sys2Proof.Machine

/-- Where the meaning answers a next state, it keeps the property. -/
def Keeps (P : State → Prop) (m : State → Result) : Prop := ∀ s t, P s → m s = .next t → P t

/-! ## Frames -/

section
variable {P : State → Prop}

theorem Keeps.act {f : State → State} (hf : ∀ s, P s → P (f s)) : Keeps P (act f) := by
  intro s t hs h
  cases h
  exact hf s hs

theorem Keeps.runAll {ms : List (State → Result)} (h : ∀ m ∈ ms, Keeps P m) : Keeps P (runAll ms) :=
  fun _ _ hs ht => runAll_keeps h hs ht

/-- A property that no write to `SEQ` touches and a micro-operation keeps, it keeps in its turn. -/
theorem Keeps.turn {i : Instr} (hq : ∀ s q, P s → P (s.setSeq q)) (hu : Keeps P (exec i)) :
    Keeps P (turn i) := fun s t hs h => hu _ t (hq s _ hs) h

theorem Keeps.frameLoop {frame : State → Result} (hq : ∀ s q, P s → P (s.setSeq q))
    (hf : Keeps P frame) (k f : Nat) : Keeps P (frameLoop frame k f) :=
  fun _ _ hs h => frameLoop_keeps (fun s _ => hq s _) hf k f hs h

theorem encodeFrame_keeps (hq : ∀ s q, P s → P (s.setSeq q)) (ha : ∀ s, P s → P (encAvail s))
    (hu : ∀ i ∈ encoderUops, Keeps P (exec i)) : Keeps P encodeFrame := by
  have hturn (i : Instr) (hi : i ∈ encoderUops) : Keeps P (turn i) := .turn hq (hu i hi)
  refine .runAll ?_
  simp only [List.forall_mem_cons, List.not_mem_nil, false_imp_iff, implies_true, and_true]
  exact ⟨hturn .loadPcm (by simp [encoderUops]), hturn .winAna (by simp [encoderUops]),
    hturn .headroom (by simp [encoderUops]), hturn .dct4Fwd (by simp [encoderUops]),
    hturn .pwrEst (by simp [encoderUops]), hturn .pwrAdj (by simp [encoderUops]),
    hturn .pwrEnc (by simp [encoderUops]), .act ha, hturn .categorize (by simp [encoderUops]),
    hturn .rateAdj (by simp [encoderUops]), hturn .bsWinit (by simp [encoderUops]),
    hturn .pack (by simp [encoderUops]), hturn .bsFlush (by simp [encoderUops])⟩

theorem concealTail_keeps (hq : ∀ s q, P s → P (s.setSeq q))
    (hu : ∀ i ∈ concealUops, Keeps P (exec i)) : Keeps P concealTail := by
  have hturn (i : Instr) (hi : i ∈ concealUops) : Keeps P (turn i) := .turn hq (hu i hi)
  refine .runAll ?_
  simp only [List.forall_mem_cons, List.not_mem_nil, false_imp_iff, implies_true, and_true]
  exact ⟨hturn .conceal (by simp [concealUops]), hturn .dct4Inv (by simp [concealUops]),
    hturn .winSyn (by simp [concealUops]), hturn .storePcm (by simp [concealUops]),
    .act fun s => hq s _⟩

theorem fillFrame_keeps (hq : ∀ s q, P s → P (s.setSeq q)) (hf : ∀ s, P s → P (fillFrameStart s))
    (hu : ∀ i ∈ concealUops, Keeps P (exec i)) : Keeps P fillFrame := by
  refine .runAll ?_
  simp only [List.forall_mem_cons, List.not_mem_nil, false_imp_iff, implies_true, and_true]
  exact ⟨.act hf, concealTail_keeps hq hu⟩

theorem decodeBody_keeps (hq : ∀ s q, P s → P (s.setSeq q)) (ha : ∀ s, P s → P (decAvail s))
    (hu : ∀ i ∈ decoderUops, Keeps P (exec i)) : Keeps P decodeBody := by
  have hturn (i : Instr) (hi : i ∈ decoderUops) : Keeps P (turn i) := .turn hq (hu i hi)
  have hregions : Keeps P fun t => decodeRegions t.d.mode.nreg 0 t := fun _ _ hs =>
    decodeRegions_keeps (fun s _ => hq s _) (fun s _ => hq s _) (hu .vqDec (by simp [decoderUops]))
      (hu .noiseFill (by simp [decoderUops])) _ _ hs
  refine .runAll ?_
  simp only [List.forall_mem_cons, List.not_mem_nil, false_imp_iff, implies_true, and_true]
  exact ⟨hturn .sdShift (by simp [decoderUops]), .act ha, hturn .categorize (by simp [decoderUops]),
    hturn .catReplay (by simp [decoderUops]), hregions, hturn .frameCheck (by simp [decoderUops])⟩

theorem decodeFrame_keeps (hq : ∀ s q, P s → P (s.setSeq q)) (hf : ∀ s, P s → P (decodeFrameStart s))
    (ha : ∀ s, P s → P (decAvail s)) (hu : ∀ i ∈ decoderUops, Keeps P (exec i)) :
    Keeps P decodeFrame := by
  have hturn (i : Instr) (hi : i ∈ decoderUops) : Keeps P (turn i) := .turn hq (hu i hi)
  have hbody : Keeps P fun s => if headerFailed s then .next s else decodeBody s := by
    intro s t hs h
    dsimp only at h
    split at h
    · cases h; exact hs
    · exact decodeBody_keeps hq ha hu s t hs h
  refine .runAll ?_
  simp only [List.forall_mem_cons, List.not_mem_nil, false_imp_iff, implies_true, and_true]
  exact ⟨.act hf, hturn .bsRinit (by simp [decoderUops]), hturn .pwrDec (by simp [decoderUops]), hbody,
    concealTail_keeps hq fun i hi => hu i (List.mem_append_right _ hi)⟩

end

/-! ## Commands -/

/-- What `CMD_CHECK` has found where it lets a command pass (47_frame_commands.md R360). -/
theorem checkCommand_ok {c : Word} {s : State} {i : Instr} {n : Nat}
    (h : checkCommand c s = .ok (i, n)) :
    decodeCommand c = .ok i ∧ (∀ side, needsContext i = some side → validOf s side = true) ∧
      configLegal i s = true ∧ n = nframesOf i s ∧ n ≤ s.build.maxFrames := by
  rcases checkCommand_cases c s with ⟨e, -, he⟩ | ⟨j, hd, ⟨-, he⟩ | ⟨-, -, he⟩ | ⟨-, -, -, he⟩ |
    ⟨hctx, hl, hn, he⟩⟩
  iterate 4 (rw [he] at h; cases h)
  rw [he] at h
  cases h
  refine ⟨hd, fun side hside => ?_, hl, rfl, hn⟩
  simpa [hside] using hctx

/-- A command's word decodes to that command, and only if its side is legal. -/
theorem decodeCommand_wordOf_eq {i j : Instr} (hc : i.isCommand = true)
    (h : decodeCommand (wordOf i) = .ok j) : j = i ∧ i.wellFormed = true := by
  cases hw : i.wellFormed with
  | true => rw [decodeCommand_wordOf hc hw] at h; cases h; exact ⟨rfl, rfl⟩
  | false =>
    obtain ⟨e, he⟩ := decodeCommand_illegalSide hc hw
    rw [he] at h; cases h

/-- A command that answers has taken a command error, or has passed its checks and run its body. -/
theorem runCommand_next {i : Instr} (hc : i.isCommand = true) {body : State → Result} {s t : State}
    (h : runCommand (wordOf i) body s = .next t) :
    (∃ err, t = commandError err s) ∨
    (i.wellFormed = true ∧ (∀ side, needsContext i = some side → validOf s side = true) ∧
      configLegal i s = true ∧ ∃ n, body (beginCommand (wordOf i) n s) = .next t) := by
  rcases runCommand_cases (wordOf i) body s with ⟨err, -, hr⟩ | ⟨j, n, he, hr⟩
  · rw [hr] at h
    cases h
    exact .inl ⟨err, rfl⟩
  · obtain ⟨hd, hctx, hl, -, -⟩ := checkCommand_ok he
    obtain ⟨rfl, hw⟩ := decodeCommand_wordOf_eq hc hd
    exact .inr ⟨hw, hctx, hl, n, hr ▸ h⟩

theorem exec_init_next {side : Side} {s t : State} (h : exec (.init side) s = .next t) :
    (∃ err, t = commandError err s) ∨
    (legalRate s.arg0.toNat = true ∧
      ∃ n, t = initBody side (beginCommand (wordOf (.init side)) n s)) := by
  rcases runCommand_next (i := .init side) (body := fun u => .next (initBody side u)) rfl h
    with herr | ⟨-, -, hl, n, hb⟩
  · exact .inl herr
  · cases hb
    simp only [configLegal, Bool.and_eq_true] at hl
    exact .inr ⟨hl.1, n, rfl⟩

theorem exec_setRate_next {side : Side} {s t : State} (h : exec (.setRate side) s = .next t) :
    (∃ err, t = commandError err s) ∨
    (legalRate s.arg0.toNat = true ∧
      ∃ n, t = setRateBody side (beginCommand (wordOf (.setRate side)) n s)) := by
  rcases runCommand_next (i := .setRate side) (body := fun u => .next (setRateBody side u)) rfl h
    with herr | ⟨-, -, hl, n, hb⟩
  · exact .inl herr
  · cases hb
    exact .inr ⟨hl, n, rfl⟩

theorem exec_release_next {side : Side} {s t : State} (h : exec (.release side) s = .next t) :
    (∃ err, t = commandError err s) ∨
    ∃ n, t = releaseBody side (beginCommand (wordOf (.release side)) n s) := by
  rcases runCommand_next (i := .release side) (body := fun u => .next (releaseBody side u)) rfl h
    with herr | ⟨-, -, -, n, hb⟩
  · exact .inl herr
  · cases hb
    exact .inr ⟨n, rfl⟩

theorem exec_encode_next {side : Side} {s t : State} (h : exec (.encode side) s = .next t) :
    (∃ err, t = commandError err s) ∨
    (side = .enc ∧ s.e.valid = true ∧ ∃ n u,
      frameLoop encodeFrame n 0 (beginCommand (wordOf (.encode .enc)) n s) = .next u ∧
      t = finishEncode u) := by
  rcases runCommand_next (i := .encode side) rfl h with herr | ⟨hw, hctx, -, n, hb⟩
  · exact .inl herr
  · obtain rfl : side = .enc := by simpa [Instr.wellFormed] using hw
    obtain ⟨u, hu, ht⟩ := thenDo_eq_next.mp hb
    cases ht
    exact .inr ⟨rfl, hctx .enc rfl, n, u, hu, rfl⟩

theorem exec_decode_next {side : Side} {s t : State} (h : exec (.decode side) s = .next t) :
    (∃ err, t = commandError err s) ∨
    (side = .dec ∧ s.d.valid = true ∧ ∃ n u,
      frameLoop decodeFrame n 0 (clearRecord (beginCommand (wordOf (.decode .dec)) n s)) = .next u ∧
      t = finishDecode u) := by
  rcases runCommand_next (i := .decode side) rfl h with herr | ⟨hw, hctx, -, n, hb⟩
  · exact .inl herr
  · obtain rfl : side = .dec := by simpa [Instr.wellFormed] using hw
    obtain ⟨u, hu, ht⟩ := thenDo_eq_next.mp hb
    cases ht
    exact .inr ⟨rfl, hctx .dec rfl, n, u, hu, rfl⟩

theorem exec_fillIn_next {side : Side} {s t : State} (h : exec (.fillIn side) s = .next t) :
    (∃ err, t = commandError err s) ∨
    (side = .dec ∧ s.d.valid = true ∧ ∃ n u,
      frameLoop fillFrame n 0 (clearRecord (beginCommand (wordOf (.fillIn .dec)) n s)) = .next u ∧
      t = finishDecode u) := by
  rcases runCommand_next (i := .fillIn side) rfl h with herr | ⟨hw, hctx, -, n, hb⟩
  · exact .inl herr
  · obtain rfl : side = .dec := by simpa [Instr.wellFormed] using hw
    obtain ⟨u, hu, ht⟩ := thenDo_eq_next.mp hb
    cases ht
    exact .inr ⟨rfl, hctx .dec rfl, n, u, hu, rfl⟩

end Sys2Proof.Machine
end

section
/-! PROOF. The invariant of the machine: every update of the state, every instruction and every step keeps
it. -/

namespace Sys2Proof.Machine

/-! ## Updates of the state -/

theorem Inv_setW {s : State} (hs : s.Inv) (w : WorkRegs) : (s.setW w).Inv := hs

theorem Inv_setSeq {s : State} (hs : s.Inv) (q : SeqRegs) : (s.setSeq q).Inv := hs

theorem Inv_setHost {s : State} (hs : s.Inv) (h : HostPort) : (s.setHost h).Inv := hs

theorem Inv_setE {s : State} (hs : s.Inv) {e : Encoder}
    (he : e.valid = true → legalRate e.rate.toNat = true) : (s.setE e).Inv := by
  obtain ⟨⟨-, hd⟩, hrest⟩ := hs
  exact ⟨⟨he, hd⟩, hrest⟩

theorem Inv_setD {s : State} (hs : s.Inv) {d : Decoder}
    (hd : d.valid = true → legalRate d.rate.toNat = true) : (s.setD d).Inv := by
  obtain ⟨⟨he, -⟩, hrest⟩ := hs
  exact ⟨⟨he, hd⟩, hrest⟩

theorem Inv_commandError {s : State} (hs : s.Inv) (err : CmdErr) : (commandError err s).Inv := by
  obtain ⟨hrates, hbuf, -, hinfo, hany⟩ := hs
  exact ⟨hrates, hbuf, fun _ => rfl, hinfo, hany⟩

theorem Inv_complete {s : State} (hs : s.Inv) (n : Nat) : (complete n s).Inv := by
  obtain ⟨hrates, hbuf, -, hinfo, hany⟩ := hs
  exact ⟨hrates, hbuf, fun h => absurd rfl h, hinfo, hany⟩

/-- `ERRINFO` and `FERR_ANY` of R411 agree (10_state.md R24, R26). -/
theorem errInfoWord_sound (q : SeqRegs) :
    (errInfoWord q).extractLsb' 8 8 = 0#8 ∧ (errInfoWord q).extractLsb' 16 16 = q.nconc := by
  constructor <;>
  · apply BitVec.eq_of_getLsbD_eq
    intro i hi
    simp only [errInfoWord, BitVec.getLsbD_extractLsb', BitVec.getLsbD_append]
    grind

theorem Inv_finishDecode {s : State} (hs : s.Inv) : (finishDecode s).Inv := by
  obtain ⟨hrates, hbuf, -⟩ := hs
  obtain ⟨hzero, hconc⟩ := errInfoWord_sound s.seq
  refine ⟨hrates, hbuf, fun h => absurd rfl h, hzero, ?_⟩
  show ferrAnyOf s.seq = true ↔ (errInfoWord s.seq).extractLsb' 16 16 ≠ 0#16
  simp [hconc, ferrAnyOf]

/-- A legal rate fits the 16 bits of `RATE` (30_encoding.md R103). -/
theorem legalRate_setWidth {a : Word} (h : legalRate a.toNat = true) :
    legalRate (a.setWidth 16).toNat = true := by
  have hlt : a.toNat ≤ 48000 := by
    simp only [legalRate, Bool.and_eq_true, decide_eq_true_eq] at h
    exact h.1.2
  rwa [BitVec.toNat_setWidth, Nat.mod_eq_of_lt (by omega)]

theorem Inv_initBody {s : State} (hs : s.Inv) (side : Side) (hl : legalRate s.arg0.toNat = true) :
    (initBody side s).Inv := by
  cases side with
  | enc => exact Inv_complete (Inv_setE hs fun _ => legalRate_setWidth hl) 0
  | dec => exact Inv_complete (Inv_setD hs fun _ => legalRate_setWidth hl) 0

theorem Inv_setRateBody {s : State} (hs : s.Inv) (side : Side) (hl : legalRate s.arg0.toNat = true) :
    (setRateBody side s).Inv := by
  cases side with
  | enc => exact Inv_complete (Inv_setE hs fun _ => legalRate_setWidth hl) 0
  | dec => exact Inv_complete (Inv_setD hs fun _ => legalRate_setWidth hl) 0

theorem Inv_releaseBody {s : State} (hs : s.Inv) (side : Side) : (releaseBody side s).Inv := by
  have hcount : State.Inv { s with freeCount := s.freeCount + 1 } := hs
  cases side with
  | enc => exact Inv_complete (Inv_setE hcount fun h => by cases h) 0
  | dec => exact Inv_complete (Inv_setD hcount fun h => by cases h) 0

/-! ## Instructions -/

theorem uop_keeps_Inv {i : Instr} (hi : i.isCommand = false) (hc : i ≠ .cmdCheck) :
    Keeps State.Inv (exec i) := by
  intro s t hs h
  have hbuf : buffersSound t := uop_keeps_buffersSound hi hc hs.2.1 h
  rcases uop_side hi hc with he | hd
  · obtain ⟨_, _, _, _, rfl⟩ := encoderUop_writes he h
    exact ⟨hs.1, hbuf, hs.2.2⟩
  · obtain ⟨_, _, _, _, _, _, _, _, rfl⟩ := decoderUop_writes hd h
    exact ⟨hs.1, hbuf, hs.2.2⟩

theorem encoderUop_keeps_Inv (i : Instr) (hi : i ∈ encoderUops) : Keeps State.Inv (exec i) := by
  apply uop_keeps_Inv <;> revert hi <;> cases i <;> simp [encoderUops, Instr.isCommand]

theorem decoderUop_keeps_Inv (i : Instr) (hi : i ∈ decoderUops) : Keeps State.Inv (exec i) := by
  apply uop_keeps_Inv <;> revert hi <;> cases i <;> simp [decoderUops, concealUops, Instr.isCommand]

theorem exec_keeps_Inv (i : Instr) : Keeps State.Inv (exec i) := by
  intro s t hs h
  cases i with
  | init side =>
    obtain ⟨err, rfl⟩ | ⟨hl, n, rfl⟩ := exec_init_next h
    · exact Inv_commandError hs err
    · exact Inv_initBody (Inv_setSeq hs _) side hl
  | setRate side =>
    obtain ⟨err, rfl⟩ | ⟨hl, n, rfl⟩ := exec_setRate_next h
    · exact Inv_commandError hs err
    · exact Inv_setRateBody (Inv_setSeq hs _) side hl
  | release side =>
    obtain ⟨err, rfl⟩ | ⟨n, rfl⟩ := exec_release_next h
    · exact Inv_commandError hs err
    · exact Inv_releaseBody (Inv_setSeq hs _) side
  | encode side =>
    obtain ⟨err, rfl⟩ | ⟨-, -, n, u, hu, rfl⟩ := exec_encode_next h
    · exact Inv_commandError hs err
    · have hframe : Keeps State.Inv encodeFrame :=
        encodeFrame_keeps (fun _ q hs => Inv_setSeq hs q) (fun _ hs => Inv_setW hs _)
          encoderUop_keeps_Inv
      exact Inv_complete (Keeps.frameLoop (P := State.Inv) (fun _ q hs => Inv_setSeq hs q) hframe n 0 _ u
        (Inv_setSeq hs _) hu) _
  | decode side =>
    obtain ⟨err, rfl⟩ | ⟨-, -, n, u, hu, rfl⟩ := exec_decode_next h
    · exact Inv_commandError hs err
    · have hframe : Keeps State.Inv decodeFrame :=
        decodeFrame_keeps (fun _ q hs => Inv_setSeq hs q) (fun _ hs => Inv_setW hs _)
          (fun _ hs => Inv_setW hs _) decoderUop_keeps_Inv
      exact Inv_finishDecode (Keeps.frameLoop (P := State.Inv) (fun _ q hs => Inv_setSeq hs q) hframe n 0 _ u
        (Inv_setSeq (Inv_setSeq hs _) _) hu)
  | fillIn side =>
    obtain ⟨err, rfl⟩ | ⟨-, -, n, u, hu, rfl⟩ := exec_fillIn_next h
    · exact Inv_commandError hs err
    · have hframe : Keeps State.Inv fillFrame :=
        fillFrame_keeps (fun _ q hs => Inv_setSeq hs q) (fun _ hs => Inv_setW hs _)
          fun i hi => decoderUop_keeps_Inv i (List.mem_append_right _ hi)
      exact Inv_finishDecode (Keeps.frameLoop (P := State.Inv) (fun _ q hs => Inv_setSeq hs q) hframe n 0 _ u
        (Inv_setSeq (Inv_setSeq hs _) _) hu)
  | cmdCheck =>
    obtain ⟨err, -, rfl⟩ | ⟨_, n, -, rfl⟩ := cmdCheck_next h
    · exact Inv_commandError hs err
    · exact Inv_setSeq hs _
  | _ => exact uop_keeps_Inv (by rfl) (by simp) s t hs h

/-! ## The sequencer's advance -/

theorem Inv_enterEncodeFrame {s : State} (hs : s.Inv) (f : Nat) : (enterEncodeFrame f s).Inv := by
  unfold enterEncodeFrame
  split
  · exact hs
  · exact Inv_complete hs _

theorem Inv_enterDecodeFrame {s : State} (hs : s.Inv) (f : Nat) : (enterDecodeFrame f s).Inv := by
  unfold enterDecodeFrame
  split
  · exact hs
  · exact Inv_finishDecode hs

theorem Inv_enterFillFrame {s : State} (hs : s.Inv) (f : Nat) : (enterFillFrame f s).Inv := by
  unfold enterFillFrame
  split
  · exact hs
  · exact Inv_finishDecode hs

theorem Inv_enterRegion {s : State} (hs : s.Inv) (r : Nat) : (enterRegion r s).Inv := by
  unfold enterRegion
  split <;> exact hs

/-- The command in `SEQ.CMD` is entered with the operands that `CMD_CHECK` has found legal. -/
theorem Inv_enterBody {s : State} (hs : s.Inv)
    (hl : s.seq.phase ≠ 0x00#8 → ∀ i, decodeCommand s.seq.cmd = .ok i → configLegal i s = true) :
    (enterBody s).Inv := by
  unfold enterBody
  split
  · exact hs
  · next hphase =>
    have hl := hl hphase
    split
    next side hd =>
      have := hl _ hd
      simp only [configLegal, Bool.and_eq_true] at this
      exact Inv_initBody hs side this.1
    next side hd => exact Inv_setRateBody hs side (hl _ hd)
    next side hd => exact Inv_releaseBody hs side
    next => exact Inv_enterEncodeFrame hs 0
    next => exact Inv_enterDecodeFrame (Inv_setSeq hs _) 0
    next => exact Inv_enterFillFrame (Inv_setSeq hs _) 0
    next => exact hs
    next => exact hs

/-- After every micro-operation but `CMD_CHECK` the sequencer's advance keeps the invariant. -/
theorem Inv_advance {i : Instr} (hi : i ≠ .cmdCheck) {s : State} (hs : s.Inv) : (advance i s).Inv := by
  cases i with
  | cmdCheck => exact absurd rfl hi
  | bsFlush => exact Inv_enterEncodeFrame hs _
  | catReplay => exact Inv_enterRegion hs 0
  | noiseFill => exact Inv_enterRegion hs _
  | categorize => simp only [advance]; split <;> exact hs
  | pwrDec => simp only [advance]; split <;> exact hs
  | storePcm =>
    simp only [advance]
    split
    · exact Inv_enterFillFrame (Inv_setSeq hs _) _
    · exact Inv_enterDecodeFrame (Inv_setSeq hs _) _
  | _ => exact hs

/-- `CMD_CHECK` and the entry into the command it has let pass. -/
theorem Inv_advance_cmdCheck {s t : State} (hs : s.Inv) (h : exec .cmdCheck s = .next t) :
    (advance .cmdCheck t).Inv := by
  refine Inv_enterBody (exec_keeps_Inv _ s t hs h) fun hphase i hd => ?_
  obtain ⟨err, -, rfl⟩ | ⟨j, n, hok, rfl⟩ := cmdCheck_next h
  · exact absurd rfl hphase
  · obtain ⟨hj, -, hl, -, -⟩ := checkCommand_ok hok
    obtain rfl : j = i := Except.ok.inj (hj.symm.trans hd)
    cases j <;> exact hl

/-! ## Steps -/

/-- Everything a host access other than a `CMD` write can do when it answers (20_memory.md R76, R79). -/
theorem performAccess_next {a : HostAccess} {s t : State} (h : performAccess a s = .next t) :
    (∃ v, t = hostReads v s) ∨ (∃ v, t = { s with arg0 := v }) ∨ (∃ v, t = { s with arg1 := v }) ∨
    (∃ i v, i < pcmCap s ∧ t = s.setPcm (Memory.write s.pcm i v)) ∨
    (∃ i v, i < bsCap s ∧ t = s.setBs (Memory.write (w := 8) s.bs i v)) := by
  cases a <;> simp only [performAccess, hostRegRead, hostRegWrite] at h <;> split_ifs at h <;>
    (try split at h) <;> cases h
  · exact .inl ⟨_, rfl⟩
  · exact .inr (.inl ⟨_, rfl⟩)
  · exact .inr (.inr (.inl ⟨_, rfl⟩))
  · exact .inl ⟨_, rfl⟩
  · exact .inr (.inr (.inr (.inl ⟨_, _, ‹_›, rfl⟩)))
  · exact .inl ⟨_, rfl⟩
  · exact .inr (.inr (.inr (.inr ⟨_, _, ‹_›, rfl⟩)))

theorem performAccess_keeps_Inv (a : HostAccess) : Keeps State.Inv (performAccess a) := by
  intro s t hs h
  obtain ⟨hrates, ⟨hpw, hpc, hbw, hbc⟩, hstat⟩ := hs
  rcases performAccess_next h with ⟨v, rfl⟩ | ⟨v, rfl⟩ | ⟨v, rfl⟩ | ⟨i, v, hi, rfl⟩ | ⟨i, v, hi, rfl⟩
  · exact ⟨hrates, ⟨hpw, hpc, hbw, hbc⟩, hstat⟩
  · exact ⟨hrates, ⟨hpw, hpc, hbw, hbc⟩, hstat⟩
  · exact ⟨hrates, ⟨hpw, hpc, hbw, hbc⟩, hstat⟩
  · exact ⟨hrates, ⟨Memory.wf_write _ _ hpw, Memory.within_write _ hpc hi, hbw, hbc⟩, hstat⟩
  · exact ⟨hrates, ⟨hpw, hpc, Memory.wf_write _ _ hbw, Memory.within_write _ hbc hi⟩, hstat⟩

/-- Everything a step can do when it answers a next state (70_reset_and_hazards.md R450). -/
theorem step_next {s t : State} (h : step s = .next t) :
    (s.seq.phase = 0x00#8 ∧ t = s) ∨
    (s.seq.phase = 0x00#8 ∧ ∃ c i, decodeCommand c = .ok i ∧ exec i (takeCommand c s) = .next t) ∨
    (s.seq.phase = 0x00#8 ∧ ∃ c, t = commandError .illCmd (takeCommand c s)) ∨
    (s.seq.phase = 0x00#8 ∧ ∃ a, performAccess a (takeAccess s) = .next t) ∨
    (s.seq.phase ≠ 0x00#8 ∧ ∃ i u, decodePhase s.seq.phase = .ok i ∧ exec i s = .next u ∧
      t = advance i u) := by
  unfold step at h
  by_cases hphase : s.seq.phase = 0x00#8
  · split at h
    next => cases h; exact .inl ⟨hphase, rfl⟩
    next c _ =>
      split at h
      next i hd => exact .inr (.inl ⟨hphase, c, i, hd, h⟩)
      next => cases h; exact .inr (.inr (.inl ⟨hphase, c, rfl⟩))
    next a _ => exact .inr (.inr (.inr (.inl ⟨hphase, a, h⟩)))
    next c hf =>
      rw [fetch, if_pos hphase] at hf
      split at hf <;> try split at hf
      all_goals cases hf
  · rw [fetch, if_neg hphase] at h
    dsimp only at h
    split at h
    next i hd =>
      obtain ⟨u, hu, ht⟩ := thenDo_eq_next.mp h
      cases ht
      exact .inr (.inr (.inr (.inr ⟨hphase, i, u, hd, hu, rfl⟩)))
    next => cases h

/-- Settles O5: every instruction keeps the invariant, and so do the host's accesses and the sequencer's
advance; `CMD_CHECK` has found legal what the advance enters. -/
theorem everyStepKeepsTheStateSound : Obligations.EveryStepKeepsTheStateSound := by
  intro s t hs h
  rcases step_next h with ⟨-, rfl⟩ | ⟨-, c, i, -, hx⟩ | ⟨-, c, rfl⟩ | ⟨-, a, ha⟩ | ⟨-, i, u, -, hx, rfl⟩
  · exact hs
  · exact exec_keeps_Inv i _ t (Inv_setHost hs _) hx
  · exact Inv_commandError (Inv_setHost hs _) _
  · exact performAccess_keeps_Inv a _ t (Inv_setHost hs _) ha
  · by_cases hi : i = .cmdCheck
    · subst hi
      exact Inv_advance_cmdCheck hs hx
    · exact Inv_advance hi (exec_keeps_Inv i s u hs hx)

end Sys2Proof.Machine
end

section
/-! PROOF. What the frames of a command leave behind, and the states between commands: `SEQ.PHASE` is `IDLE`
there, and the magnitude shifts of a `FLOAT` build are 0 (10_state.md R31, R38). -/

namespace Sys2Proof.Machine

/-! ## Footprints of the frame sequences -/

/-- What the frames of `ENCODE` leave behind: the writes of its micro-operations and of the sequencer. -/
def EncRun (s t : State) : Prop :=
  ∃ w hist bw m q, t = { s with w := w, e := { s.e with hist := hist, bw := bw }, bs := m, seq := q }

/-- What the frames of `DECODE` and `FILL_IN` leave behind. -/
def DecRun (s t : State) : Prop :=
  ∃ w oldcoef oldshift oldsamp rand br m p q,
    t = { s with
      w := w, pcm := m, port := p, seq := q
      d := { s.d with
        oldcoef := oldcoef, oldshift := oldshift, oldsamp := oldsamp, rand := rand, br := br } }

theorem EncRun.refl (s : State) : EncRun s s := ⟨_, _, _, _, _, rfl⟩

theorem DecRun.refl (s : State) : DecRun s s := ⟨_, _, _, _, _, _, _, _, _, rfl⟩

theorem EncRun.trans {s t u : State} (h : EncRun s t) (k : EncRun t u) : EncRun s u := by
  obtain ⟨_, _, _, _, _, rfl⟩ := h
  obtain ⟨_, _, _, _, _, rfl⟩ := k
  exact ⟨_, _, _, _, _, rfl⟩

theorem DecRun.trans {s t u : State} (h : DecRun s t) (k : DecRun t u) : DecRun s u := by
  obtain ⟨_, _, _, _, _, _, _, _, _, rfl⟩ := h
  obtain ⟨_, _, _, _, _, _, _, _, _, rfl⟩ := k
  exact ⟨_, _, _, _, _, _, _, _, _, rfl⟩

theorem EncWrites.run {s t : State} (h : EncWrites s t) : EncRun s t := by
  obtain ⟨_, _, _, _, rfl⟩ := h
  exact ⟨_, _, _, _, _, rfl⟩

theorem DecWrites.run {s t : State} (h : DecWrites s t) : DecRun s t := by
  obtain ⟨_, _, _, _, _, _, _, _, rfl⟩ := h
  exact ⟨_, _, _, _, _, _, _, _, _, rfl⟩

theorem EncRun.of_setSeq (s : State) (q : SeqRegs) : EncRun s (s.setSeq q) := ⟨_, _, _, _, _, rfl⟩

theorem DecRun.of_setSeq (s : State) (q : SeqRegs) : DecRun s (s.setSeq q) :=
  ⟨_, _, _, _, _, _, _, _, _, rfl⟩

theorem encodeFrames_run {n f : Nat} {s t : State} (h : frameLoop encodeFrame n f s = .next t) :
    EncRun s t := by
  have hq (u : State) (q : SeqRegs) (hu : EncRun s u) := hu.trans (.of_setSeq u q)
  have hframe : Keeps (EncRun s) encodeFrame :=
    encodeFrame_keeps hq (fun u hu => hu.trans (EncWrites.of_setW u _).run)
      fun i hi u v hu hx => hu.trans (encoderUop_writes hi hx).run
  exact Keeps.frameLoop hq hframe n f s t (.refl s) h

theorem decodeFrames_run {n f : Nat} {s t : State} (h : frameLoop decodeFrame n f s = .next t) :
    DecRun s t := by
  have hq (u : State) (q : SeqRegs) (hu : DecRun s u) := hu.trans (.of_setSeq u q)
  have hw (u : State) (w : WorkRegs) (hu : DecRun s u) := hu.trans (DecWrites.of_setW u w).run
  have hframe : Keeps (DecRun s) decodeFrame :=
    decodeFrame_keeps hq (fun u => hw u _) (fun u => hw u _)
      fun i hi u v hu hx => hu.trans (decoderUop_writes hi hx).run
  exact Keeps.frameLoop hq hframe n f s t (.refl s) h

/-- The frames of `FILL_IN` read no bit: the read cursor stays (R383). -/
theorem fillFrames_run {n f : Nat} {s t : State} (h : frameLoop fillFrame n f s = .next t) :
    DecRun s t ∧ t.d.br = s.d.br := by
  have hq (u : State) (q : SeqRegs) (hu : DecRun s u ∧ u.d.br = s.d.br) :
      DecRun s (u.setSeq q) ∧ (u.setSeq q).d.br = s.d.br := ⟨hu.1.trans (.of_setSeq u q), hu.2⟩
  have hframe : Keeps (fun u => DecRun s u ∧ u.d.br = s.d.br) fillFrame :=
    fillFrame_keeps hq (fun u hu => ⟨hu.1.trans (DecWrites.of_setW u _).run, hu.2⟩)
      fun i hi u v hu hx =>
        ⟨hu.1.trans (decoderUop_writes (List.mem_append_right _ hi) hx).run,
          (concealUop_br hi hx).trans hu.2⟩
  exact Keeps.frameLoop (P := fun u => DecRun s u ∧ u.d.br = s.d.br) hq hframe n f s t ⟨.refl s, rfl⟩ h

/-! ## The magnitude shifts of a `FLOAT` build -/

/-- In a `FLOAT` build `W.MAGSH` is 0. -/
def magshZero (s : State) : Prop := s.build.backend = .float → s.w.magsh = 0#16

/-- In a `FLOAT` build `W.MAGSH` and `D.OLDSHIFT` are 0. -/
def shiftsZero (s : State) : Prop :=
  s.build.backend = .float → s.w.magsh = 0#16 ∧ s.d.oldshift = 0#16

theorem chosenShift_float {s : State} (h : s.build.backend = .float) : chosenShift s = 0#16 := by
  simp [chosenShift, h]

/-- Only `HEADROOM`, `SD_SHIFT` and `CONCEAL` write a magnitude shift. -/
theorem uop_shifts {i : Instr} (hi : i ∈ encoderUops ++ decoderUops)
    (hn : i ∉ [.headroom, .sdShift, .conceal]) {s t : State} (h : exec i s = .next t) :
    t.w.magsh = s.w.magsh ∧ t.d.oldshift = s.d.oldshift := by
  cases i with
  | loadPcm => obtain ⟨v, rfl⟩ := execLoadPcm_next h; simp
  | pack => obtain ⟨bits, -, rfl⟩ := execPack_next h; simp
  | bsFlush => obtain ⟨-, rfl⟩ := execBsFlush_next h; simp
  | bsPut => obtain ⟨-, rfl⟩ := execBsPut_next h; simp
  | pwrDec => obtain ⟨_, _, _, br, rfl⟩ := execPwrDec_next h; simp
  | vqDec => obtain ⟨_, _, _, br, rfl⟩ := execVqDec_next h; simp
  | noiseFill => obtain ⟨coef, rand, rfl⟩ := execNoiseFill_next h; simp
  | frameCheck => obtain ⟨ferr, br, rfl⟩ := execFrameCheck_next h; simp
  | storePcm => obtain ⟨-, rfl⟩ := execStorePcm_next h; simp
  | bsGet => obtain ⟨v, br, rfl⟩ := execBsGet_next h; simp
  | idle | bsWinit | bsRinit | rand | winAna | winSyn | dct4Fwd | pwrEst | pwrAdj | pwrEnc | categorize
  | rateAdj | vqEnc | catReplay | dct4Inv => cases h; simp
  | _ => simp [encoderUops, decoderUops, concealUops] at hi hn

/-- `HEADROOM` chooses 0 in a `FLOAT` build (R247); no other micro-operation of the encoder shifts. -/
theorem encoderUop_keeps_magshZero (i : Instr) (hi : i ∈ encoderUops) : Keeps magshZero (exec i) := by
  intro s t hs h
  by_cases hi' : i = .headroom
  · subst hi'
    cases h
    exact chosenShift_float
  · have hn : i ∉ [.headroom, .sdShift, .conceal] := by
      revert hi hi'
      cases i <;> simp [encoderUops]
    have hb := build_of_sides (.inl (encoderUop_writes hi h))
    simpa only [magshZero, hb, uop_shifts (List.mem_append_left _ hi) hn h] using hs

/-- `SD_SHIFT` sets 0 in a `FLOAT` build (R288) and `CONCEAL` exchanges the two shifts (R412, R413); no other
micro-operation of the decoder shifts. -/
theorem decoderUop_keeps_shiftsZero (i : Instr) (hi : i ∈ decoderUops) : Keeps shiftsZero (exec i) := by
  intro s t hs h
  by_cases hi' : i ∈ [.sdShift, .conceal]
  · intro hf
    rw [build_of_sides (.inr (decoderUop_writes hi h))] at hf
    obtain ⟨hm, ho⟩ := hs hf
    cases i with
    | sdShift => cases h; exact ⟨by simp [hf, toI16], ho⟩
    | conceal => cases h; simp [enterConceal, hm, ho]
    | _ => simp at hi'
  · have hn : i ∉ [.headroom, .sdShift, .conceal] := by
      revert hi hi'
      cases i <;> simp [decoderUops, concealUops]
    have hb := build_of_sides (.inr (decoderUop_writes hi h))
    simpa only [shiftsZero, hb, uop_shifts (List.mem_append_right _ hi) hn h] using hs

/-! ## Rest -/

/-- `ENCODE` at rest ends at rest: side `D` is not written (20_memory.md R85). -/
theorem atRest_encode {side : Side} {s t : State} (hs : atRest s) (h : exec (.encode side) s = .next t) :
    atRest t := by
  obtain ⟨-, hf⟩ := hs
  obtain ⟨err, rfl⟩ | ⟨-, -, n, u, hu, rfl⟩ := exec_encode_next h
  · exact ⟨rfl, hf⟩
  · have hm : magshZero u := by
      have hframe : Keeps magshZero encodeFrame :=
        encodeFrame_keeps (fun _ _ hs => hs) (fun _ hs => hs) encoderUop_keeps_magshZero
      exact Keeps.frameLoop (P := magshZero) (fun _ _ hs => hs) hframe n 0
        (beginCommand (wordOf (.encode .enc)) n s) u (fun hb => (hf hb).1) hu
    obtain ⟨_, _, _, _, _, rfl⟩ := encodeFrames_run hu
    exact ⟨rfl, fun hb => ⟨hm hb, (hf hb).2⟩⟩

/-- The frames of `DECODE` and `FILL_IN` keep both shifts 0; both commands need a context, so that the retained
shift is 0 at their start. -/
theorem atRest_decodeFrames {frame : State → Result} (hframe : Keeps shiftsZero frame) {n : Nat}
    {s t u : State} (hs : atRest s) (hv : s.d.valid = true) {q : SeqRegs}
    (hu : frameLoop frame n 0 (s.setSeq q) = .next u) (ht : t = finishDecode u) : atRest t := by
  subst ht
  have hm : shiftsZero u :=
    Keeps.frameLoop (P := shiftsZero) (fun _ _ hs => hs) hframe n 0 (s.setSeq q) u
      (fun hb => ⟨(hs.2 hb).1, (hs.2 hb).2 hv⟩) hu
  exact ⟨rfl, fun hb => ⟨(hm hb).1, fun _ => (hm hb).2⟩⟩

theorem decodeFrame_keeps_shiftsZero : Keeps shiftsZero decodeFrame :=
  decodeFrame_keeps (fun _ _ hs => hs) (fun _ hs => hs) (fun _ hs => hs) decoderUop_keeps_shiftsZero

theorem fillFrame_keeps_shiftsZero : Keeps shiftsZero fillFrame :=
  fillFrame_keeps (fun _ _ hs => hs) (fun _ hs hb => ⟨rfl, (hs hb).2⟩)
    fun i hi => decoderUop_keeps_shiftsZero i (List.mem_append_right _ hi)

/-- Every command at rest ends at rest. -/
theorem atRest_exec {i : Instr} (hi : i.isCommand = true) {s t : State} (hs : atRest s)
    (h : exec i s = .next t) : atRest t := by
  obtain ⟨-, hf⟩ := id hs
  cases i with
  | init side =>
    obtain ⟨err, rfl⟩ | ⟨-, n, rfl⟩ := exec_init_next h
    · exact ⟨rfl, hf⟩
    · cases side with
      | enc => exact ⟨rfl, hf⟩
      | dec => exact ⟨rfl, fun hb => ⟨(hf hb).1, fun _ => rfl⟩⟩
  | setRate side =>
    obtain ⟨err, rfl⟩ | ⟨-, n, rfl⟩ := exec_setRate_next h
    · exact ⟨rfl, hf⟩
    · cases side <;> exact ⟨rfl, hf⟩
  | release side =>
    obtain ⟨err, rfl⟩ | ⟨n, rfl⟩ := exec_release_next h
    · exact ⟨rfl, hf⟩
    · cases side with
      | enc => exact ⟨rfl, hf⟩
      | dec => exact ⟨rfl, fun hb => ⟨(hf hb).1, fun hv => by cases hv⟩⟩
  | encode side => exact atRest_encode hs h
  | decode side =>
    obtain ⟨err, rfl⟩ | ⟨-, hv, n, u, hu, ht⟩ := exec_decode_next h
    · exact ⟨rfl, hf⟩
    · exact atRest_decodeFrames decodeFrame_keeps_shiftsZero hs hv hu ht
  | fillIn side =>
    obtain ⟨err, rfl⟩ | ⟨-, hv, n, u, hu, ht⟩ := exec_fillIn_next h
    · exact ⟨rfl, hf⟩
    · exact atRest_decodeFrames fillFrame_keeps_shiftsZero hs hv hu ht
  | _ => cases hi

/-- What a command word decodes to is a command (30_encoding.md R102). -/
theorem isCommand_of_decodeCommand {c : Word} {i : Instr} (h : decodeCommand c = .ok i) :
    i.isCommand = true := by
  have hof {opc side} (h : commandOf opc side = some i) : i.isCommand = true := by
    unfold commandOf at h
    split_ifs at h <;> cases h <;> rfl
  unfold decodeCommand at h
  split at h
  · cases h
  · next hc =>
    split_ifs at h
    cases h
    exact hof hc

theorem atRest_performAccess {a : HostAccess} {s t : State} (hs : atRest s)
    (h : performAccess a s = .next t) : atRest t := by
  rcases performAccess_next h with ⟨v, rfl⟩ | ⟨v, rfl⟩ | ⟨v, rfl⟩ | ⟨i, v, -, rfl⟩ | ⟨i, v, -, rfl⟩ <;>
    exact hs

/-- Settles O7: a step between commands is nothing, a whole command, a command error or a host access. -/
theorem everyStepBetweenCommandsEndsAtRest : Obligations.EveryStepBetweenCommandsEndsAtRest := by
  intro s t hs h
  rcases step_next h with ⟨-, rfl⟩ | ⟨-, c, i, hd, hx⟩ | ⟨-, c, rfl⟩ | ⟨-, a, ha⟩ | ⟨hphase, -⟩
  · exact hs
  · exact atRest_exec (s := takeCommand c s) (isCommand_of_decodeCommand hd) hs hx
  · exact ⟨rfl, hs.2⟩
  · exact atRest_performAccess (s := takeAccess s) hs ha
  · exact absurd hs.1 hphase

end Sys2Proof.Machine
end

section
/-! PROOF. What each family of instructions leaves alone, and the life cycle of the two contexts. -/

namespace Sys2Proof.Machine

/-! ## Commands -/

/-- A frame command of the encoder that answers took a command error or ran frames: it leaves side `D`,
`PCMBUF`, the frame-error registers and the context of side `E`. -/
theorem exec_encode_leaves {side : Side} {s t : State} (h : exec (.encode side) s = .next t) :
    ∃ w hist bw m q err r, t = { s with
      w := w, e := { s.e with hist := hist, bw := bw }, bs := m, seq := q, cmdErr := err, result := r } := by
  obtain ⟨err, rfl⟩ | ⟨-, -, n, u, hu, rfl⟩ := exec_encode_next h
  · exact ⟨_, _, _, _, _, _, _, rfl⟩
  · obtain ⟨_, _, _, _, _, rfl⟩ := encodeFrames_run hu
    exact ⟨_, _, _, _, _, _, _, rfl⟩

/-- What `DECODE` and `FILL_IN` leave behind: the frames' writes, and the status of the command. -/
def DecCommand (s t : State) : Prop :=
  ∃ u err r info any, DecRun s u ∧
    t = { u with cmdErr := err, result := r, errInfo := info, ferrAny := any, seq := t.seq }

theorem DecCommand.of_commandError (s : State) (err : CmdErr) : DecCommand s (commandError err s) :=
  ⟨s, _, _, _, _, .refl s, rfl⟩

theorem exec_decode_leaves {side : Side} {s t : State} (h : exec (.decode side) s = .next t) :
    DecCommand s t := by
  obtain ⟨err, rfl⟩ | ⟨-, -, n, u, hu, rfl⟩ := exec_decode_next h
  · exact .of_commandError s err
  · exact ⟨u, _, _, _, _, (DecRun.of_setSeq s _).trans (decodeFrames_run hu), rfl⟩

theorem exec_fillIn_leaves {side : Side} {s t : State} (h : exec (.fillIn side) s = .next t) :
    DecCommand s t ∧ t.d.br = s.d.br := by
  obtain ⟨err, rfl⟩ | ⟨-, -, n, u, hu, rfl⟩ := exec_fillIn_next h
  · exact ⟨.of_commandError s err, rfl⟩
  · obtain ⟨hrun, hbr⟩ := fillFrames_run hu
    exact ⟨⟨u, _, _, _, _, (DecRun.of_setSeq s _).trans hrun, rfl⟩, hbr⟩

/-- The registers a command of a context may write (R362, R365, R367): the status, `SEQ`, and the registers of
its own side. -/
def ContextCommand (side : Side) (s t : State) : Prop :=
  ∃ err r q k, match side with
    | .enc => ∃ e, t = { s with cmdErr := err, result := r, seq := q, freeCount := k, e := e }
    | .dec => ∃ d, t = { s with cmdErr := err, result := r, seq := q, freeCount := k, d := d }

theorem ContextCommand.of_commandError (side : Side) (s : State) (err : CmdErr) :
    ContextCommand side s (commandError err s) := by
  cases side <;> exact ⟨_, _, _, _, _, rfl⟩

theorem exec_init_leaves {side : Side} {s t : State} (h : exec (.init side) s = .next t) :
    ContextCommand side s t := by
  obtain ⟨err, rfl⟩ | ⟨-, n, rfl⟩ := exec_init_next h
  · exact .of_commandError side s err
  · cases side <;> exact ⟨_, _, _, _, _, rfl⟩

theorem exec_setRate_leaves {side : Side} {s t : State} (h : exec (.setRate side) s = .next t) :
    ContextCommand side s t := by
  obtain ⟨err, rfl⟩ | ⟨-, n, rfl⟩ := exec_setRate_next h
  · exact .of_commandError side s err
  · cases side <;> exact ⟨_, _, _, _, _, rfl⟩

theorem exec_release_leaves {side : Side} {s t : State} (h : exec (.release side) s = .next t) :
    ContextCommand side s t := by
  obtain ⟨err, rfl⟩ | ⟨n, rfl⟩ := exec_release_next h
  · exact .of_commandError side s err
  · cases side <;> exact ⟨_, _, _, _, _, rfl⟩

/-! ## What no instruction writes -/

/-- The build, the operand registers and the host's side are the same (10_state.md R20, R23). -/
def SharedSame (s t : State) : Prop :=
  t.build = s.build ∧ t.arg0 = s.arg0 ∧ t.arg1 = s.arg1 ∧ t.host = s.host

theorem ContextCommand.shared {side : Side} {s t : State} (h : ContextCommand side s t) :
    SharedSame s t ∧ t.pcm = s.pcm ∧ t.bs = s.bs := by
  cases side <;> obtain ⟨_, _, _, _, _, rfl⟩ := h <;> exact ⟨⟨rfl, rfl, rfl, rfl⟩, rfl, rfl⟩

theorem DecCommand.shared {s t : State} (h : DecCommand s t) :
    SharedSame s t ∧ t.e = s.e ∧ t.bs = s.bs := by
  obtain ⟨_, _, _, _, _, ⟨_, _, _, _, _, _, _, _, _, rfl⟩, ht⟩ := h
  rw [ht]
  exact ⟨⟨rfl, rfl, rfl, rfl⟩, rfl, rfl⟩

/-- A micro-operation other than `CMD_CHECK` leaves the host's registers and `SEQ` (10_state.md R24 to R26,
R33). -/
theorem uop_leaves {i : Instr} (hi : i.isCommand = false) (hc : i ≠ .cmdCheck) {s t : State}
    (h : exec i s = .next t) :
    SharedSame s t ∧ t.cmdErr = s.cmdErr ∧ t.result = s.result ∧ t.ferrAny = s.ferrAny ∧
      t.errInfo = s.errInfo ∧ t.seq = s.seq := by
  rcases uop_side hi hc with he | hd
  · obtain ⟨_, _, _, _, rfl⟩ := encoderUop_writes he h
    exact ⟨⟨rfl, rfl, rfl, rfl⟩, rfl, rfl, rfl, rfl, rfl⟩
  · obtain ⟨_, _, _, _, _, _, _, _, rfl⟩ := decoderUop_writes hd h
    exact ⟨⟨rfl, rfl, rfl, rfl⟩, rfl, rfl, rfl, rfl, rfl⟩

theorem exec_leaves_shared {i : Instr} {s t : State} (h : exec i s = .next t) : SharedSame s t := by
  cases i with
  | init side => exact (exec_init_leaves h).shared.1
  | setRate side => exact (exec_setRate_leaves h).shared.1
  | release side => exact (exec_release_leaves h).shared.1
  | encode side =>
    obtain ⟨_, _, _, _, _, _, _, rfl⟩ := exec_encode_leaves h
    exact ⟨rfl, rfl, rfl, rfl⟩
  | decode side => exact (exec_decode_leaves h).shared.1
  | fillIn side => exact (exec_fillIn_leaves h).1.shared.1
  | cmdCheck => obtain ⟨_, -, rfl⟩ | ⟨_, _, -, rfl⟩ := cmdCheck_next h <;> exact ⟨rfl, rfl, rfl, rfl⟩
  | _ => exact (uop_leaves (by rfl) (by simp) h).1

/-- The instructions that write a buffer are the frame commands and four micro-operations (20_memory.md R78,
R85). -/
theorem exec_leaves_buffers {i : Instr} (he : ∀ side, i ≠ .encode side) (hd : ∀ side, i ≠ .decode side)
    (hf : ∀ side, i ≠ .fillIn side) (hw : i ∉ [.storePcm, .bsPut, .bsFlush, .pack]) {s t : State}
    (h : exec i s = .next t) : t.pcm = s.pcm ∧ t.bs = s.bs := by
  cases i with
  | init side => exact (exec_init_leaves h).shared.2
  | setRate side => exact (exec_setRate_leaves h).shared.2
  | release side => exact (exec_release_leaves h).shared.2
  | encode side => exact absurd rfl (he side)
  | decode side => exact absurd rfl (hd side)
  | fillIn side => exact absurd rfl (hf side)
  | _ => exact uop_buffers (by rfl) hw h

/-- Settles O9, one lemma for each family. -/
theorem instructionsLeaveAloneWhatTheirRulesDoNotName :
    Obligations.InstructionsLeaveAloneWhatTheirRulesDoNotName := by
  intro i s t h
  refine ⟨exec_leaves_shared h, fun he hd hf hst hpu hfl hpa => ?_, fun hi hc => ?_, ?_, ?_, ?_⟩
  · obtain ⟨hp, hb⟩ := exec_leaves_buffers he hd hf (by simp [hst, hpu, hfl, hpa]) h
    exact ⟨fun a => by rw [hp], fun a => by rw [hb]⟩
  · exact (uop_leaves hi hc h).2
  · rintro side rfl
    obtain ⟨_, _, _, _, _, _, _, rfl⟩ := exec_encode_leaves h
    exact ⟨rfl, rfl, rfl, fun _ => rfl⟩
  · rintro side (rfl | rfl)
    · obtain ⟨-, he, hb⟩ := (exec_decode_leaves h).shared
      exact ⟨he, fun a => by rw [hb]⟩
    · obtain ⟨-, he, hb⟩ := (exec_fillIn_leaves h).1.shared
      exact ⟨he, fun a => by rw [hb]⟩
  · rintro side rfl
    exact (exec_fillIn_leaves h).2

/-! ## The life cycle of the contexts -/

/-- The context of side `E`: whether it is valid, its mode and its rate (10_state.md R27). -/
def SameEncContext (s t : State) : Prop :=
  t.e.valid = s.e.valid ∧ t.e.mode = s.e.mode ∧ t.e.rate = s.e.rate

/-- The same for side `D` (R28). -/
def SameDecContext (s t : State) : Prop :=
  t.d.valid = s.d.valid ∧ t.d.mode = s.d.mode ∧ t.d.rate = s.d.rate

/-- A command of one context leaves the other (R368). -/
theorem ContextCommand.other {side : Side} {s t : State} (h : ContextCommand side s t) :
    (side = .enc → SameDecContext s t) ∧ (side = .dec → SameEncContext s t) := by
  cases side <;> obtain ⟨_, _, _, _, _, rfl⟩ := h
  · exact ⟨fun _ => ⟨rfl, rfl, rfl⟩, nofun⟩
  · exact ⟨nofun, fun _ => ⟨rfl, rfl, rfl⟩⟩

/-- `SET_RATE` leaves `VALID` and `MODE` of its own side too (R365). -/
theorem exec_setRate_valid_mode {side : Side} {s t : State} (h : exec (.setRate side) s = .next t) :
    t.e.valid = s.e.valid ∧ t.e.mode = s.e.mode ∧ t.d.valid = s.d.valid ∧ t.d.mode = s.d.mode := by
  obtain ⟨err, rfl⟩ | ⟨-, n, rfl⟩ := exec_setRate_next h
  · exact ⟨rfl, rfl, rfl, rfl⟩
  · cases side <;> exact ⟨rfl, rfl, rfl, rfl⟩

theorem uop_leaves_contexts {i : Instr} (hi : i.isCommand = false) (hc : i ≠ .cmdCheck) {s t : State}
    (h : exec i s = .next t) : SameEncContext s t ∧ SameDecContext s t := by
  rcases uop_side hi hc with he | hd
  · obtain ⟨_, _, _, _, rfl⟩ := encoderUop_writes he h
    exact ⟨⟨rfl, rfl, rfl⟩, rfl, rfl, rfl⟩
  · obtain ⟨_, _, _, _, _, _, _, _, rfl⟩ := decoderUop_writes hd h
    exact ⟨⟨rfl, rfl, rfl⟩, rfl, rfl, rfl⟩

/-- Every instruction but the three context commands leaves both contexts (R368). -/
theorem exec_leaves_contexts {i : Instr} (hi : ∀ side, i ≠ .init side) (hs : ∀ side, i ≠ .setRate side)
    (hr : ∀ side, i ≠ .release side) {s t : State} (h : exec i s = .next t) :
    SameEncContext s t ∧ SameDecContext s t := by
  have hdec {s t : State} (h : DecCommand s t) : SameEncContext s t ∧ SameDecContext s t := by
    obtain ⟨_, _, _, _, _, ⟨_, _, _, _, _, _, _, _, _, rfl⟩, ht⟩ := h
    rw [ht]
    exact ⟨⟨rfl, rfl, rfl⟩, rfl, rfl, rfl⟩
  cases i with
  | init side => exact absurd rfl (hi side)
  | setRate side => exact absurd rfl (hs side)
  | release side => exact absurd rfl (hr side)
  | encode side =>
    obtain ⟨_, _, _, _, _, _, _, rfl⟩ := exec_encode_leaves h
    exact ⟨⟨rfl, rfl, rfl⟩, rfl, rfl, rfl⟩
  | decode side => exact hdec (exec_decode_leaves h)
  | fillIn side => exact hdec (exec_fillIn_leaves h).1
  | cmdCheck =>
    obtain ⟨_, -, rfl⟩ | ⟨_, _, -, rfl⟩ := cmdCheck_next h <;> exact ⟨⟨rfl, rfl, rfl⟩, rfl, rfl, rfl⟩
  | _ => exact uop_leaves_contexts (by rfl) (by simp) h

/-- Settles O10: the three context commands write their own side, and no other instruction writes a context. -/
theorem contextsChangeOnlyByTheirCommands : Obligations.ContextsChangeOnlyByTheirCommands := by
  intro i s t h
  by_cases hi : ∃ side, i = .init side
  · obtain ⟨side, rfl⟩ := hi
    obtain ⟨hd, he⟩ := (exec_init_leaves h).other
    cases side with
    | enc => obtain ⟨hv, hm, hr⟩ := hd rfl; simp [hv, hm, hr]
    | dec => obtain ⟨hv, hm, hr⟩ := he rfl; simp [hv, hm, hr]
  by_cases hr : ∃ side, i = .release side
  · obtain ⟨side, rfl⟩ := hr
    obtain ⟨hd, he⟩ := (exec_release_leaves h).other
    cases side with
    | enc => obtain ⟨hv, hm, hr⟩ := hd rfl; simp [hv, hm, hr]
    | dec => obtain ⟨hv, hm, hr⟩ := he rfl; simp [hv, hm, hr]
  by_cases hs : ∃ side, i = .setRate side
  · obtain ⟨side, rfl⟩ := hs
    obtain ⟨hd, he⟩ := (exec_setRate_leaves h).other
    obtain ⟨hve, hme, hvd, hmd⟩ := exec_setRate_valid_mode h
    cases side with
    | enc => obtain ⟨-, -, hr⟩ := hd rfl; simp [hve, hme, hvd, hmd, hr]
    | dec => obtain ⟨-, -, hr⟩ := he rfl; simp [hve, hme, hvd, hmd, hr]
  · obtain ⟨⟨hve, hme, hre⟩, hvd, hmd, hrd⟩ := exec_leaves_contexts (fun side hs => hi ⟨side, hs⟩)
      (fun side h => hs ⟨side, h⟩) (fun side h => hr ⟨side, h⟩) h
    simp [hve, hme, hre, hvd, hmd, hrd]

end Sys2Proof.Machine
end

section
/-! PROOF. The step and what it decodes, reset, `IDLE`, `CMD_CHECK` and `INIT`, and the host's accesses. -/

namespace Sys2Proof.Machine

/-! ## The step -/

/-- At `IDLE` a 32-bit write to `CMD` runs its command (10_state.md R22, 70_reset_and_hazards.md R450). -/
theorem step_command {s : State} {w : Word} {rest : List HostAccess} {i : Instr}
    (hphase : s.seq.phase = 0x00#8) (hp : s.host.pending = .regWrite 0x00 32 w :: rest)
    (hd : decodeCommand w = .ok i) :
    step s = exec i (s.setHost { s.host with pending := rest, cmdWord := w }) := by
  simp [step, fetch, hphase, hp, hd, takeCommand]

/-- While a sequence runs, a step is the micro-operation of its phase and the advance. -/
theorem step_phase {s : State} {i : Instr} (hphase : s.seq.phase ≠ 0x00#8)
    (hd : decodePhase s.seq.phase = .ok i) : step s = thenDo (exec i s) fun t => .next (advance i t) := by
  simp [step, fetch, hphase, hd]

theorem step_nothing {s : State} (hphase : s.seq.phase = 0x00#8) (hp : s.host.pending = []) :
    step s = exec .idle s := by
  simp [step, fetch, hphase, hp]

/-- At `IDLE` any other access of the host is performed. -/
theorem step_access {s : State} {a : HostAccess} {rest : List HostAccess} (hphase : s.seq.phase = 0x00#8)
    (hp : s.host.pending = a :: rest) (ha : ∀ v, a ≠ .regWrite 0x00 32 v) :
    step s = performAccess a (s.setHost { s.host with pending := rest }) := by
  have hf : fetch s = .access a := by
    cases a with
    | regWrite off width v =>
      have hne : ¬ (off = 0 ∧ width = 32) := by rintro ⟨rfl, rfl⟩; exact ha v rfl
      simp [fetch, hphase, hp, hne]
    | _ => simp [fetch, hphase, hp]
  simp [step, hf, takeAccess, hp]

/-- A phase that decodes holds the code of its instruction (30_encoding.md R104). -/
theorem phaseOf_of_decodePhase {c : Byte} {i : Instr} (h : decodePhase c = .ok i) : phaseOf i = c := by
  have htable : ∀ p ∈ uopTable, phaseOf p.2 = p.1 := by decide
  unfold decodePhase at h
  split at h
  · next j hl =>
    cases h
    obtain ⟨l, r, hl, -⟩ := List.lookup_eq_some_iff.mp hl
    exact htable (c, i) (by simp [hl])
  · cases h

theorem eq_idle_of_decodePhase_zero {i : Instr} (h : decodePhase 0x00#8 = .ok i) : i = .idle := by
  cases h; rfl

theorem decodeTableWord_command {w : Nat} {i : Instr} (h : decodeTableWord 32 w = some i) :
    decodeCommand (BitVec.ofNat 32 w) = .ok i := by
  rw [decodeTableWord, codeWordOfBits, if_pos rfl] at h
  dsimp only [decode] at h
  split at h
  next hd => cases h; exact hd
  next => cases h

theorem decodeTableWord_phase {w : Nat} {i : Instr} (h : decodeTableWord 8 w = some i) :
    decodePhase (BitVec.ofNat 8 w) = .ok i := by
  rw [decodeTableWord, codeWordOfBits, if_neg (by omega), if_pos rfl] at h
  dsimp only [decode] at h
  split at h
  next hd => cases h; exact hd
  next => cases h

/-- Settles O3, a clause for each thing a step can find to do, and for each place of a table row's word. -/
theorem stepRunsTheDecodedInstruction : Obligations.StepRunsTheDecodedInstruction := by
  refine ⟨fun s w rest i => step_command, fun s i => step_phase, fun s => step_nothing, ?_, ?_, ?_⟩
  · intro s w i h
    exact step_command (s := s.withFetchWord 32 w) (rest := s.host.pending) rfl rfl
      (decodeTableWord_command h)
  · intro s w i h hi
    have hd := decodeTableWord_phase h
    have hc := phaseOf_of_decodePhase hd
    have hne : BitVec.ofNat 8 w ≠ 0x00#8 := by
      intro h0
      rw [h0] at hd
      exact hi (eq_idle_of_decodePhase_zero hd)
    have hs : s.withFetchWord 8 w = s.setPhase (phaseOf i) := by
      rw [hc]
      simp [State.withFetchWord, codeWordOfBits, placeCode, hne]
    rw [hs]
    exact step_phase (by simpa [hc] using hne) (by simpa [hc] using hd)
  · intro s
    exact step_nothing (s := s.withFetchWord 8 0) rfl rfl

/-! ## Reset -/

/-- Settles O6. -/
theorem resetStateIsSoundAndAtRest : Obligations.ResetStateIsSoundAndAtRest := by
  have hrates : ratesLegal State.reset := ⟨nofun, nofun⟩
  have hbuf : buffersSound State.reset := ⟨rfl, rfl, rfl, rfl⟩
  have hstat : statusSound State.reset := ⟨fun _ => rfl, by decide, by decide⟩
  exact ⟨⟨hrates, hbuf, hstat⟩, rfl, fun _ => ⟨rfl, nofun⟩⟩

/-- Settles O8. -/
theorem resetLeavesTheStatedValues : Obligations.ResetLeavesTheStatedValues :=
  ⟨rfl, rfl, rfl, rfl, rfl, rfl, rfl, rfl, rfl, rfl, fun _ => ⟨rfl, rfl⟩⟩

/-! ## `IDLE` and `CMD_CHECK` -/

/-- Settles O24. -/
theorem idleAndCommandCheckFollowTheirRules : Obligations.IdleAndCommandCheckFollowTheirRules := by
  refine ⟨fun s => rfl, fun s i n h => ?_, fun s err h => ?_⟩
  · show execCmdCheck s = _
    simp only [execCmdCheck, h]
    rfl
  · show execCmdCheck s = _
    simp only [execCmdCheck, h]
    rfl

/-! ## `INIT` -/

/-- `CMD_CHECK` lets an `INIT` with legal operands pass (R103, R360). -/
theorem checkCommand_init {s : State} {m : Mode} (side : Side) (hl : legalRate s.arg0.toNat = true)
    (hm : modeOfSelector s.arg1 = some m) :
    checkCommand (wordOf (.init side)) s = .ok (.init side, 0) := by
  simp [checkCommand, decodeCommand_wordOf (i := .init side) rfl rfl, needsContext, configLegal, hl, hm,
    nframesOf]

theorem exec_init {s : State} {m : Mode} (side : Side) (hl : legalRate s.arg0.toNat = true)
    (hm : modeOfSelector s.arg1 = some m) :
    exec (.init side) s = .next (initBody side (beginCommand (wordOf (.init side)) 0 s)) :=
  runCommand_ok (body := fun t => .next (initBody side t)) (checkCommand_init side hl hm)

/-- A signal register after its zeros have been put holds zeros in the face of the build. -/
theorem SigReg.put_zeros {n : Nat} (r : SigReg n) (b : Backend) (z : FVal) :
    let q := r.put b (Vector.replicate n 0#16) (Vector.replicate n z)
    (b = .fixed → ∀ i < n, vget q.fx i = 0#16) ∧ (b = .float → ∀ i < n, vget q.fl i = z) := by
  refine ⟨?_, ?_⟩
  · rintro rfl i hi
    simp [SigReg.put, hi]
  · rintro rfl i hi
    simp [SigReg.put, hi]

/-- Settles O16. -/
theorem initGivesItsSideTheInitialValues : Obligations.InitGivesItsSideTheInitialValues := by
  intro s m h1 h2 h3 harg
  have hl : legalRate s.arg0.toNat = true := by simp [legalRate, h1, h2, h3]
  have hm : modeOfSelector s.arg1 = some m := by cases m <;> rw [harg] <;> rfl
  have hmode (c : Word) : initMode (beginCommand c 0 s) = m := by simp [initMode, hm]
  have hrate : s.arg0.setWidth 16 = BitVec.ofNat 16 s.arg0.toNat :=
    BitVec.eq_of_toNat_eq (by simp)
  obtain ⟨hcx, hcl⟩ := SigReg.put_zeros s.d.oldcoef s.build.backend (Config.fOfInt 0)
  obtain ⟨hsx, hsl⟩ := SigReg.put_zeros s.d.oldsamp s.build.backend (Config.fOfInt 0)
  refine ⟨⟨_, ?_, SigReg.put_zeros s.e.hist s.build.backend (Config.fOfInt 0)⟩,
    ⟨_, _, ?_, fun hb => ⟨hcx hb, hsx hb⟩, fun hb => ⟨hcl hb, hsl hb⟩⟩⟩
  · rw [exec_init .enc hl hm, initBody, initEncoder, hmode, beginCommand_arg0, hrate]
    rfl
  · rw [exec_init .dec hl hm, initBody, initDecoder, hmode, beginCommand_arg0, hrate]
    rfl

/-! ## Host accesses -/

/-- `STATUS` bit by bit (10_state.md R24). -/
theorem statusWord_bits (s : State) :
    (statusWord s).getLsbD 0 = false ∧ (statusWord s).getLsbD 1 = s.e.valid ∧
    (statusWord s).getLsbD 2 = s.d.valid ∧ (statusWord s).getLsbD 3 = false ∧
    (statusWord s).extractLsb' 4 4 = s.cmdErr.code ∧ (statusWord s).getLsbD 8 = s.ferrAny ∧
    (statusWord s).getLsbD 9 = (s.build.backend == .float) ∧
    ∀ k, 10 ≤ k → (statusWord s).getLsbD k = false := by
  have hflag (b : Bool) : (flagBit b)[0] = b := by cases b <;> rfl
  refine ⟨?_, ?_, ?_, ?_, ?_, ?_, ?_, fun k hk => ?_⟩
  case refine_5 =>
    apply BitVec.eq_of_getLsbD_eq
    intro i hi
    simp only [statusWord, BitVec.getLsbD_append, BitVec.getLsbD_extractLsb']
    grind
  case refine_8 =>
    simp only [statusWord, BitVec.getLsbD_append]
    grind
  all_goals
    simp only [statusWord, BitVec.getLsbD_append]
    simp [hflag]

section
variable {s : State} {i : Nat}

theorem performAccess_pcmRead {x : BitVec 16} (hi : i < pcmCap s) (hx : Memory.read s.pcm i = some x) :
    performAccess (.pcmRead i) s = .next (hostReads (x.setWidth 32) s) := by
  simp [performAccess, hi, hx]

theorem performAccess_pcmRead_unwritten (hi : i < pcmCap s) (hx : Memory.read s.pcm i = none) :
    performAccess (.pcmRead i) s = .fault (.pcmUnwritten i) := by
  simp [performAccess, hi, hx]

theorem performAccess_bsRead {x : Byte} (hi : i < bsCap s) (hx : Memory.read (w := 8) s.bs i = some x) :
    performAccess (.bsRead i) s = .next (hostReads (x.setWidth 32) s) := by
  simp [performAccess, hi, hx]

theorem performAccess_bsRead_unwritten (hi : i < bsCap s) (hx : Memory.read (w := 8) s.bs i = none) :
    performAccess (.bsRead i) s = .fault (.bsUnwritten i) := by
  simp [performAccess, hi, hx]

theorem performAccess_pcmWrite (v : BitVec 16) (hi : i < pcmCap s) :
    performAccess (.pcmWrite i v) s = .next (s.setPcm (Memory.write s.pcm i v)) := by
  simp [performAccess, hi]

theorem performAccess_bsWrite (v : Byte) (hi : i < bsCap s) :
    performAccess (.bsWrite i v) s = .next (s.setBs (Memory.write (w := 8) s.bs i v)) := by
  simp [performAccess, hi]

/-- An index outside `PCMBUF` is refused, read or written (20_memory.md R76, item I2). -/
theorem performAccess_pcm_outside (v : BitVec 16) (hi : pcmCap s ≤ i) :
    performAccess (.pcmRead i) s = .refused (.pcmIndex i) ∧
      performAccess (.pcmWrite i v) s = .refused (.pcmIndex i) := by
  simp [performAccess, Nat.not_lt.mpr hi]

/-- An index outside `BSBUF` is refused, read or written. -/
theorem performAccess_bs_outside (v : Byte) (hi : bsCap s ≤ i) :
    performAccess (.bsRead i) s = .refused (.bsIndex i) ∧
      performAccess (.bsWrite i v) s = .refused (.bsIndex i) := by
  simp [performAccess, Nat.not_lt.mpr hi]

/-- An access of another width than 32 bits, or at an offset that no register has, is refused (R76, item
I1). -/
theorem performAccess_reg_refused {off width : Nat} (v : Word)
    (h : width ≠ 32 ∨ off % 4 ≠ 0 ∨ 0x14 < off) :
    performAccess (.regRead off width) s = .refused (.registerAccess off width) ∧
      performAccess (.regWrite off width v) s = .refused (.registerAccess off width) := by
  by_cases hw : width = 32
  · have h0 : off ≠ 0x00 := by omega
    have h1 : off ≠ 0x04 := by omega
    have h2 : off ≠ 0x08 := by omega
    have h3 : off ≠ 0x0C := by omega
    have h4 : off ≠ 0x10 := by omega
    have h5 : off ≠ 0x14 := by omega
    simp [performAccess, hostRegRead, hostRegWrite, readRegister, hw, h0, h1, h2, h3, h4, h5]
  · simp [performAccess, hostRegRead, hostRegWrite, hw]

end

/-- Settles O57: what `performAccess` gives for each read, and `STATUS` bit by bit. -/
theorem hostReadsGiveTheStoredValueOnly : Obligations.HostReadsGiveTheStoredValueOnly := by
  intro s a rest hphase hp gives
  have hstep (ha : ∀ v, a ≠ .regWrite 0x00 32 v) := step_access hphase hp ha
  refine ⟨?_, ?_, ?_, ?_, ?_, ?_, ?_, ?_, ?_, ?_⟩
  case refine_6 =>
    rintro rfl
    obtain ⟨h0, h1, h2, h3, h4, h8, h9, h10⟩ := statusWord_bits s
    refine ⟨statusWord s, hstep nofun, h0, h1, h2, h3, ?_, h8, h9, h10⟩
    rw [h4]
    cases s.cmdErr <;> rfl
  case refine_7 =>
    rintro i x rfl hi hx
    exact (hstep nofun).trans (performAccess_pcmRead (s := s.setHost _) hi hx)
  case refine_8 =>
    rintro i x rfl hi hx
    exact (hstep nofun).trans (performAccess_bsRead (s := s.setHost _) hi hx)
  case refine_9 =>
    rintro i rfl hi hx
    exact (hstep nofun).trans (performAccess_pcmRead_unwritten (s := s.setHost _) hi hx)
  case refine_10 =>
    rintro i rfl hi hx
    exact (hstep nofun).trans (performAccess_bsRead_unwritten (s := s.setHost _) hi hx)
  all_goals
    rintro rfl
    exact hstep nofun

/-- Settles O58: what `performAccess` answers for each write, and for what is no access of the TCE. -/
theorem hostWritesStoreOneValueOrAreRefused : Obligations.HostWritesStoreOneValueOrAreRefused := by
  intro s a rest hphase hp s'
  have hstep (ha : ∀ v, a ≠ .regWrite 0x00 32 v) : step s = performAccess a s' :=
    step_access hphase hp ha
  refine ⟨?_, ?_, ?_, ?_, ?_, ?_, ?_, ?_⟩
  · rintro v rfl
    exact hstep (by simp)
  · rintro v rfl
    exact hstep (by simp)
  · rintro i v rfl hi
    exact ⟨_, (hstep nofun).trans (performAccess_pcmWrite v hi), Memory.read_write _ _ _⟩
  · rintro i v rfl hi
    exact ⟨_, (hstep nofun).trans (performAccess_bsWrite v hi), Memory.read_write _ _ _⟩
  · rintro off v rfl (rfl | rfl | rfl) <;> exact hstep (by simp)
  · rintro off width v (rfl | rfl) h
    · exact (hstep nofun).trans (performAccess_reg_refused v h).1
    · refine (hstep ?_).trans (performAccess_reg_refused v h).2
      rintro u ⟨⟩
      simp at h
  · rintro i v (rfl | rfl) hi
    · exact (hstep nofun).trans (performAccess_pcm_outside (s := s') v hi).1
    · exact (hstep nofun).trans (performAccess_pcm_outside (s := s') v hi).2
  · rintro i v (rfl | rfl) hi
    · exact (hstep nofun).trans (performAccess_bs_outside (s := s') v hi).1
    · exact (hstep nofun).trans (performAccess_bs_outside (s := s') v hi).2

end Sys2Proof.Machine
end

section
/-! PROOF. The bit reader delivers the stream's bits: what a refill fetches, what a read takes off, and the
guarded reads inside a frame. -/

namespace Sys2Proof.Machine

/-! ## Bit strings -/

@[simp] theorem length_bitsOf (v n : Nat) : (bitsOf v n).length = n := by simp [bitsOf]

theorem getElem_bitsOf {v n i : Nat} (h : i < (bitsOf v n).length) :
    (bitsOf v n)[i] = v.testBit (n - 1 - i) := by simp [bitsOf]

/-- The high part of a bit string, then its low part. -/
theorem bitsOf_add (v n m : Nat) : bitsOf v (n + m) = bitsOf (v / 2 ^ m) n ++ bitsOf v m := by
  apply List.ext_getElem (by simp)
  intro i h1 h2
  rw [List.getElem_append]
  split
  · next hlt =>
    simp only [length_bitsOf] at hlt
    simp only [getElem_bitsOf, Nat.testBit_div_two_pow]
    congr 1
    omega
  · next hge =>
    simp only [length_bitsOf] at hge h1
    simp only [getElem_bitsOf, length_bitsOf]
    congr 1
    omega

/-- A bit string of `n` bits depends on those bits only. -/
theorem bitsOf_congr {v u n : Nat} (h : ∀ i < n, v.testBit i = u.testBit i) : bitsOf v n = bitsOf u n := by
  apply List.ext_getElem (by simp)
  intro i h1 h2
  simp only [length_bitsOf] at h1
  simp only [getElem_bitsOf]
  exact h _ (by omega)

theorem bitsOf_mod (v n : Nat) : bitsOf (v % 2 ^ n) n = bitsOf v n :=
  bitsOf_congr fun i hi => by simp [Nat.testBit_mod_two_pow, hi]

@[simp] theorem length_streamBits (m : List Host.Cell) (p n : Nat) : (streamBits m p n).length = n := by
  simp [streamBits]

theorem streamBits_add (m : List Host.Cell) (p a b : Nat) :
    streamBits m p (a + b) = streamBits m p a ++ streamBits m (p + a) b := by
  simp only [streamBits, List.range_add, List.map_append, List.map_map]
  congr 1
  apply List.map_congr_left
  intro i _
  simp only [Function.comp, Nat.add_assoc]

/-- The eight stream bits of a written byte (20_memory.md R74). -/
theorem streamBits_byte {m : List Host.Cell} {a : Nat} {b : Byte}
    (h : Memory.read (w := 8) m a = some b) : streamBits m (8 * a) 8 = (bitsOf b.toNat 8).map some := by
  simp only [streamBits, bitsOf, List.map_map]
  apply List.map_congr_left
  intro i hi
  have hi : i < 8 := List.mem_range.mp hi
  have h1 : (8 * a + i) / 8 = a := by omega
  have h2 : (8 * a + i) % 8 = i := by omega
  simp only [streamBit, h1, h2, h, Option.map_some, Function.comp, BitVec.testBit_toNat]

/-! ## Reads -/

/-- A read of `n` bits that fetches `k` bytes: the value's bits and those still held are the bits held before
and the stream's next `8 * k` (41_bitstream.md R186, R187). -/
structure Delivers (m : List Host.Cell) (n k : Nat) (br : BitReader) (v : Word) (br' : BitReader) :
    Prop where
  ptr : br'.ptr = br.ptr + k
  res : br'.res + n = br.res + 8 * k
  rem : br'.rem = br.rem
  lt : v.toNat < 2 ^ n
  bits : (bitsOf v.toNat n ++ heldBits br').map some =
    (heldBits br).map some ++ streamBits m (8 * br.ptr) (8 * k)

/-- The engine reads the bytes `a .. a+k-1`. -/
def Readable (s : State) (a k : Nat) : Prop :=
  ∀ i, a ≤ i → i < a + k → ∃ b, Memory.read (w := 8) s.bs i = some b ∧ readBs s i = .ok b

theorem Readable.mono {s : State} {a k a' k' : Nat} (h : Readable s a k) (ha : a ≤ a')
    (hk : a' + k' ≤ a + k) : Readable s a' k' := fun i h1 h2 => h i (by omega) (by omega)

theorem readable_of_ready {s : State} {a k : Nat} (h : bytesReady s a k)
    (hc : k = 0 ∨ a + k ≤ bsCap s) : Readable s a k := by
  intro i h1 h2
  obtain ⟨b, hb⟩ := Option.isSome_iff_exists.mp (h i h1 h2)
  exact ⟨b, hb, readBs_of_read hb (by omega)⟩

/-- Fetching a byte appends its bits to those held (R187): the accumulator has room for 32. -/
theorem heldBits_fetch {br : BitReader} (hres : br.res ≤ 24) (b : Byte) :
    heldBits { br with acc := (br.acc <<< 8) ||| b.setWidth 32, ptr := br.ptr + 1, res := br.res + 8 } =
      heldBits br ++ bitsOf b.toNat 8 := by
  simp only [heldBits]
  rw [bitsOf_add]
  congr 1
  · apply bitsOf_congr
    intro i hi
    simp only [Nat.testBit_div_two_pow, BitVec.testBit_toNat, BitVec.getLsbD_or, BitVec.getLsbD_shiftLeft,
      BitVec.getLsbD_setWidth]
    simp
    omega
  · apply bitsOf_congr
    intro i hi
    simp only [BitVec.testBit_toNat, BitVec.getLsbD_or, BitVec.getLsbD_shiftLeft, BitVec.getLsbD_setWidth]
    simp [hi]
    omega

/-- The loop of R187 fetches the least number of bytes that gives `n` bits. -/
theorem refill_ok {s : State} {n : Nat} (hn : n ≤ 24) (fuel : Nat) (br : BitReader)
    (hfuel : (n - br.res + 7) / 8 ≤ fuel) (hr : Readable s br.ptr ((n - br.res + 7) / 8)) :
    ∃ br1, refill (readBs s) n fuel br = .ok br1 ∧ br1.ptr = br.ptr + (n - br.res + 7) / 8 ∧
      br1.res = br.res + 8 * ((n - br.res + 7) / 8) ∧ br1.rem = br.rem ∧
      (heldBits br1).map some =
        (heldBits br).map some ++ streamBits s.bs (8 * br.ptr) (8 * ((n - br.res + 7) / 8)) := by
  induction fuel generalizing br with
  | zero =>
    have hk : (n - br.res + 7) / 8 = 0 := by omega
    exact ⟨br, rfl, by simp [hk], by simp [hk], rfl, by simp [hk, streamBits]⟩
  | succ fuel ih =>
    by_cases hlt : br.res < n
    · obtain ⟨b, hb, hrd⟩ := hr br.ptr (by omega) (by omega)
      have hk : (n - br.res + 7) / 8 = (n - (br.res + 8) + 7) / 8 + 1 := by omega
      rw [hk] at hr hfuel ⊢
      obtain ⟨br1, hr1, hptr, hres, hrem, hbits⟩ :=
        ih { br with acc := (br.acc <<< 8) ||| b.setWidth 32, ptr := br.ptr + 1, res := br.res + 8 }
          (Nat.succ_le_succ_iff.mp hfuel) (hr.mono (by simp) (by simp only; omega))
      dsimp only at hptr hres hrem hbits
      have hsum (k : Nat) : 8 * (k + 1) = 8 + 8 * k := by omega
      refine ⟨br1, by rw [refill, if_pos hlt, hrd]; exact hr1, by omega, by omega, hrem, ?_⟩
      rw [hbits, heldBits_fetch (by omega), hsum ((n - (br.res + 8) + 7) / 8), streamBits_add,
        streamBits_byte hb, List.map_append, List.append_assoc, Nat.mul_add_one]
    · have hk : (n - br.res + 7) / 8 = 0 := by omega
      exact ⟨br, by rw [refill, if_neg hlt], by simp [hk], by simp [hk], rfl, by simp [hk, streamBits]⟩

/-- `BS_GET` for `n ≤ 24` (R187): the oldest `n` held bits are taken off. -/
theorem getNarrow_ok {s : State} {n : Nat} (hn : n ≤ 24) (br : BitReader)
    (hr : Readable s br.ptr ((n - br.res + 7) / 8)) :
    ∃ v br', getNarrow (readBs s) n br = .ok (v, br') ∧
      Delivers s.bs n ((n - br.res + 7) / 8) br v br' := by
  obtain ⟨br1, hr1, hptr, hres, hrem, hbits⟩ := refill_ok hn n br (by omega) hr
  have hle : n ≤ br1.res := by omega
  refine ⟨BitVec.ofNat 32 ((br1.acc >>> (br1.res - n)).toNat % 2 ^ n), { br1 with res := br1.res - n },
    by rw [getNarrow, hr1], hptr, by simp only; omega, hrem, ?_, ?_⟩
  · have h32 : 2 ^ n ≤ 2 ^ 32 := Nat.pow_le_pow_right (by omega) (by omega)
    have hmod := Nat.mod_lt (br1.acc >>> (br1.res - n)).toNat (Nat.two_pow_pos n)
    rw [BitVec.toNat_ofNat, Nat.mod_eq_of_lt (Nat.lt_of_lt_of_le hmod h32)]
    exact hmod
  · have hv : bitsOf (BitVec.ofNat 32 ((br1.acc >>> (br1.res - n)).toNat % 2 ^ n)).toNat n =
        bitsOf (br1.acc.toNat / 2 ^ (br1.res - n)) n := by
      apply bitsOf_congr
      intro i hi
      simp only [BitVec.toNat_ofNat, Nat.testBit_mod_two_pow, BitVec.toNat_ushiftRight,
        Nat.shiftRight_eq_div_pow]
      simp [hi]
      omega
    have hheld : heldBits br1 = bitsOf (br1.acc.toNat / 2 ^ (br1.res - n)) n ++
        bitsOf br1.acc.toNat (br1.res - n) := by
      rw [← bitsOf_add, heldBits, Nat.add_sub_cancel' hle]
    rw [← hbits, hheld, hv]
    rfl

/-- Two reads one after the other are one read of both widths (R188). -/
theorem Delivers.append {m : List Host.Cell} {n n' k k' : Nat} {br br1 br2 : BitReader} {hi lo : Word}
    (hn : n + n' ≤ 32) (h : Delivers m n k br hi br1) (h' : Delivers m n' k' br1 lo br2) :
    Delivers m (n + n') (k + k') br ((hi <<< n') ||| lo) br2 := by
  have hval : ((hi <<< n') ||| lo).toNat = hi.toNat * 2 ^ n' + lo.toNat := by
    have hlt : hi.toNat * 2 ^ n' < 2 ^ 32 := by
      calc hi.toNat * 2 ^ n' < 2 ^ n * 2 ^ n' := Nat.mul_lt_mul_of_pos_right h.lt (Nat.two_pow_pos _)
        _ = 2 ^ (n + n') := (Nat.pow_add _ _ _).symm
        _ ≤ 2 ^ 32 := Nat.pow_le_pow_right (by omega) hn
    rw [BitVec.toNat_or, BitVec.toNat_shiftLeft, Nat.shiftLeft_eq, Nat.mod_eq_of_lt hlt,
      ← Nat.shiftLeft_eq, Nat.shiftLeft_add_eq_or_of_lt h'.lt]
  have hdiv : (hi.toNat * 2 ^ n' + lo.toNat) / 2 ^ n' = hi.toNat := by
    rw [Nat.mul_comm, Nat.mul_add_div (Nat.two_pow_pos _), Nat.div_eq_of_lt h'.lt, Nat.add_zero]
  have hmod : bitsOf (hi.toNat * 2 ^ n' + lo.toNat) n' = bitsOf lo.toNat n' := by
    rw [← bitsOf_mod, Nat.mul_add_mod_self_right, bitsOf_mod]
  refine ⟨by have := h.ptr; have := h'.ptr; omega, by have := h.res; have := h'.res; omega,
    h'.rem.trans h.rem, ?_, ?_⟩
  · rw [hval, Nat.pow_add]
    calc hi.toNat * 2 ^ n' + lo.toNat < hi.toNat * 2 ^ n' + 2 ^ n' := Nat.add_lt_add_left h'.lt _
      _ = (hi.toNat + 1) * 2 ^ n' := (Nat.succ_mul _ _).symm
      _ ≤ 2 ^ n * 2 ^ n' := Nat.mul_le_mul_right _ h.lt
  · rw [hval, bitsOf_add, hdiv, hmod, List.append_assoc, List.map_append, h'.bits, ← List.append_assoc,
      ← List.map_append, h.bits, List.append_assoc, h.ptr, Nat.mul_add, Nat.mul_add, streamBits_add]

/-- `BS_GET` for 1 to 32 bits (R187, R188). -/
theorem getField_ok {s : State} {n : Nat} (hn : n ≤ 32) (br : BitReader)
    (hr : Readable s br.ptr ((n - br.res + 7) / 8)) :
    ∃ v br', getField (readBs s) n br = .ok (v, br') ∧
      Delivers s.bs n ((n - br.res + 7) / 8) br v br' := by
  by_cases hle : n ≤ 24
  · rw [getField, if_pos hle]
    exact getNarrow_ok hle br hr
  · obtain ⟨hi, br1, h1, hd1⟩ := getNarrow_ok (n := 24) (by omega) br (hr.mono (by omega) (by omega))
    have hptr := hd1.ptr
    have hres := hd1.res
    have hk : (n - br.res + 7) / 8 = (24 - br.res + 7) / 8 + (n - 24 - br1.res + 7) / 8 := by omega
    obtain ⟨lo, br2, h2, hd2⟩ :=
      getNarrow_ok (n := n - 24) (by omega) br1 (hr.mono (by omega) (by omega))
    refine ⟨(hi <<< (n - 24)) ||| lo, br2, by rw [getField, if_neg hle, h1]; simp only [h2], ?_⟩
    have hsum : n = 24 + (n - 24) := by omega
    rw [hk]
    have := hd1.append (by omega) hd2
    rwa [← hsum] at this

/-- Where the first byte a read needs does not answer, the read does not (R187, R188). -/
theorem getNarrow_error {rd : Nat → Except Fault Byte} {n : Nat} {br : BitReader} {f : Fault}
    (hlt : br.res < n) (hf : rd br.ptr = .error f) : getNarrow rd n br = .error f := by
  obtain ⟨n, rfl⟩ : ∃ k, n = k + 1 := ⟨n - 1, by omega⟩
  rw [getNarrow, refill, if_pos hlt, hf]

theorem getField_error {s : State} {n : Nat} {br : BitReader} {f : Fault} (hn : n ≤ 32)
    (hlt : br.res < n) (hf : readBs s br.ptr = .error f) : getField (readBs s) n br = .error f := by
  by_cases hle : n ≤ 24
  · rw [getField, if_pos hle]
    exact getNarrow_error hlt hf
  · rw [getField, if_neg hle]
    by_cases h24 : br.res < 24
    · rw [getNarrow_error h24 hf]
    · have hk : (24 - br.res + 7) / 8 = 0 := by omega
      obtain ⟨hi, br1, h1, hd1⟩ := getNarrow_ok (s := s) (n := 24) (by omega) br
        (by intro i h1 h2; omega)
      have hptr := hd1.ptr
      have hres := hd1.res
      have hbr : br1.ptr = br.ptr := by omega
      rw [h1]
      simp only [getNarrow_error (show br1.res < n - 24 by omega) (hbr ▸ hf)]

/-- Settles O31: a read of the port's width delivers the stream's bits, or faults at its first byte. -/
theorem bsGetDeliversTheNextStreamBits : Obligations.BsGetDeliversTheNextStreamBits := by
  intro s n k h1 h32 hres
  have hguard : 1 ≤ s.port.nbits ∧ s.port.nbits ≤ 32 := ⟨h1, h32⟩
  refine ⟨fun hk hcap hnone => ?_, fun hready hcap => ?_⟩
  · have hf : readBs s s.d.br.ptr = .error (.bsUnwritten s.d.br.ptr) := by simp [readBs, hnone, hcap]
    show execBsGet s = _
    rw [execBsGet, if_pos hguard, getField_error h32 (by omega) hf]
  · obtain ⟨v, br, hget, hd⟩ := getField_ok h32 s.d.br (readable_of_ready hready hcap)
    refine ⟨v, br, ?_, hd.ptr, hd.res, hd.rem, hd.lt, hd.bits⟩
    show execBsGet s = _
    rw [execBsGet, if_pos hguard, hget]

end Sys2Proof.Machine
end

section
/-! PROOF. Guarded reads inside a frame, and the flags of `FRAME_CHECK`. -/

namespace Sys2Proof.Machine

/-! ## Guarded reads -/

/-- The bytes a reader inside a frame still needs are readable. -/
theorem readable_in_frame {s : State} {br : BitReader} {base n k : Nat} (hf : frameReady s base n)
    (hlo : 8 * base ≤ 8 * br.ptr) (hhi : 8 * (br.ptr + k) ≤ 8 * base + n + 7) :
    Readable s br.ptr k := by
  obtain ⟨h8, hready, hcap⟩ := hf
  exact (readable_of_ready hready (.inr hcap)).mono (by omega) (by omega)

theorem bitsOf_one (v : Nat) : bitsOf v 1 = [v.testBit 0] := by simp [bitsOf]

/-- `GETBIT` with bits left gives the frame's next bit (41_bitstream.md R190). -/
theorem getBit_in_frame {s : State} {br : BitReader} {base n : Nat} (hf : frameReady s base n)
    (hr : readerAt s.bs br base n) (hpos : 0 < br.rem) :
    ∃ b br', getBit (readBs s) br = .ok (some b, br') ∧ readerAt s.bs br' base n ∧
      br'.rem = br.rem - 1 ∧ some b = streamBit s.bs (8 * base + (n - br.rem.toNat)) := by
  obtain ⟨h0, hn, hres, hpos8, hheld⟩ := hr
  obtain ⟨v, br', hget, hptr, hres', hrem, hlt, hbits⟩ :=
    getField_ok (s := s) (n := 1) (by omega) { br with rem := br.rem - 1 }
      (readable_in_frame hf (by simp only; omega) (by simp only; omega))
  dsimp only at hptr hres' hrem hbits
  have hstart : 8 * br.ptr - br.res = 8 * base + (n - br.rem.toNat) := by omega
  have hall : (v.toNat.testBit 0 :: heldBits br').map some =
      streamBits s.bs (8 * br.ptr - br.res) (1 + br'.res) := by
    have h1 : 1 + br'.res = br.res + 8 * ((1 - br.res + 7) / 8) := by omega
    have h2 : 8 * br.ptr - br.res + br.res = 8 * br.ptr := by omega
    rw [h1, streamBits_add, h2, ← hheld]
    rw [bitsOf_one] at hbits
    exact hbits
  rw [streamBits_add, List.map_cons, hstart] at hall
  obtain ⟨hbit, hrest⟩ := List.cons.inj hall
  refine ⟨v.getLsbD 0, br', by rw [getBit, if_neg (by omega), hget], ⟨?_, ?_, ?_, ?_, ?_⟩, hrem, ?_⟩
  · omega
  · omega
  · omega
  · omega
  · have h3 : 8 * br'.ptr - br'.res = 8 * base + (n - br.rem.toNat) + 1 := by omega
    rw [h3]
    exact hrest
  · rw [← BitVec.testBit_toNat]
    exact hbit

/-- `GETBITS` with enough bits left gives the frame's next bits (R190). -/
theorem getBits_in_frame {s : State} {base n : Nat} (hf : frameReady s base n) (k : Nat)
    {br : BitReader} (hr : readerAt s.bs br base n) (hk : k ≤ br.rem) :
    ∃ bits br', getBits (readBs s) k br = .ok (some bits, br') ∧ readerAt s.bs br' base n ∧
      br'.rem = br.rem - k ∧
      bits.map some = streamBits s.bs (8 * base + (n - br.rem.toNat)) k := by
  induction k generalizing br with
  | zero => exact ⟨[], br, rfl, hr, by omega, rfl⟩
  | succ k ih =>
    obtain ⟨b, br1, h1, hr1, hrem1, hb⟩ := getBit_in_frame hf hr (by omega)
    obtain ⟨bits, br2, h2, hr2, hrem2, hbits⟩ := ih hr1 (by omega)
    have hnext : 8 * base + (n - br1.rem.toNat) = 8 * base + (n - br.rem.toNat) + 1 := by
      have := hr.2.1
      omega
    refine ⟨b :: bits, br2, by rw [getBits, h1]; simp only [h2], hr2, by omega, ?_⟩
    rw [List.map_cons, hbits, hb, Nat.add_comm k 1, streamBits_add, hnext]
    rfl

/-! ## `FRAME_CHECK` -/

theorem ferrSetIf_getLsbD (c : Bool) (flag ferr : BitVec 4) (k : Nat) :
    (ferrSetIf c flag ferr).getLsbD k = (ferr.getLsbD k || (c && flag.getLsbD k)) := by
  cases c <;> simp [ferrSetIf]

/-- The four flags after the check, one by one (60_exceptions.md R407 to R409). -/
theorem checkedFlags_bits (w : WorkRegs) (rem : Int) (pad : Bool) (m : Mode) :
    (checkedFlags w rem pad m).getLsbD 0 = (w.ferr.getLsbD 0 || (decide (rem > 0) && pad)) ∧
    (checkedFlags w rem pad m).getLsbD 1 =
      (w.ferr.getLsbD 1 || (underran w rem && decide (w.catctl.val < m.nposs - 1))) ∧
    (checkedFlags w rem pad m).getLsbD 2 =
      (w.ferr.getLsbD 2 || (List.range m.nreg).any fun r => outOfRange (vget w.abs r)) ∧
    (checkedFlags w rem pad m).getLsbD 3 = w.ferr.getLsbD 3 := by
  simp only [checkedFlags, ferrSetIf_getLsbD]
  simp [ferrPad, ferrOverrun, ferrRange]

theorem outOfRange_iff (a : I16) : outOfRange a = true ↔ a.toInt < -17 ∨ 22 < a.toInt := by
  rw [outOfRange, Bool.or_eq_true, decide_eq_true_iff, decide_eq_true_iff, esfAdj]
  omega

theorem underran_iff (w : WorkRegs) (rem : Int) :
    underran w rem = true ↔ rem < 0 ∨ (rem = 0 ∧ w.underrun = true) := by
  simp [underran]

/-- All leftover bits are read, none where `REM` is not above 0 (R406). -/
theorem getBits_leftover {s : State} {base n : Nat} (hf : frameReady s base n)
    (hr : readerAt s.bs s.d.br base n ∨ s.d.br.rem < 0) :
    ∃ bits br, getBits (readBs s) s.d.br.rem.toNat s.d.br = .ok (some bits, br) ∧
      br.rem = min 0 s.d.br.rem ∧
      (0 < s.d.br.rem → bits.map some =
        streamBits s.bs (8 * base + (n - s.d.br.rem.toNat)) s.d.br.rem.toNat) := by
  rcases hr with hr | hneg
  · have h0 : 0 ≤ s.d.br.rem := hr.1
    obtain ⟨bits, br, hget, -, hrem, hbits⟩ := getBits_in_frame hf s.d.br.rem.toNat hr (by omega)
    exact ⟨bits, br, hget, by omega, fun _ => hbits⟩
  · have h0 : s.d.br.rem.toNat = 0 := by omega
    exact ⟨[], s.d.br, by rw [h0]; rfl, by omega, fun h => by omega⟩

/-- Settles O55: the leftover bits, then each flag by its cause. -/
theorem frameCheckSetsExactlyTheFlagsCaused : Obligations.FrameCheckSetsExactlyTheFlagsCaused := by
  intro s base n hf hr
  obtain ⟨bits, br, hget, hrem, hbits⟩ := getBits_leftover hf hr
  obtain ⟨hpad, hover, hrange, herased⟩ :=
    checkedFlags_bits s.w s.d.br.rem (bits.any fun b => !b) s.d.mode
  refine ⟨checkedFlags s.w s.d.br.rem (bits.any fun b => !b) s.d.mode, br, ?_, hrem, ?_, ?_, ?_, herased⟩
  · show execFrameCheck s = _
    rw [execFrameCheck, hget]
    rfl
  · have hzero (hpos : 0 < s.d.br.rem) : (bits.any fun b => !b) = true ↔
        some false ∈ streamBits s.bs (8 * base + (n - s.d.br.rem.toNat)) s.d.br.rem.toNat := by
      rw [← hbits hpos]
      simp
    simp only [hpad, Bool.or_eq_true, Bool.and_eq_true, decide_eq_true_eq, gt_iff_lt]
    exact or_congr_right (and_congr_right hzero)
  · simp only [hover, Bool.or_eq_true, Bool.and_eq_true, decide_eq_true_eq, underran_iff]
  · simp only [hrange, Bool.or_eq_true, List.any_eq_true, List.mem_range, outOfRange_iff]

/-! ## `LOAD_PCM` -/

theorem readPcm_unwritten {s : State} {i : Nat} (h : Memory.read s.pcm i = none) (hc : i < pcmCap s) :
    readPcm s i = .error (.pcmUnwritten i) := by simp [readPcm, h, hc]

theorem readPcm_outside {s : State} {i : Nat} (hc : pcmCap s ≤ i) :
    readPcm s i = .error (.pcmCapacity i) := by
  rw [readPcm]
  split <;> simp [Nat.not_lt.mpr hc]

/-- The first sample on the way that does not answer ends the read of a block. -/
theorem readPcmList_error {s : State} {a n k : Nat} {f : Fault} (hk : k < n)
    (h : ∀ i, a ≤ i → i < a + k → ∃ v, readPcm s i = .ok v) (hf : readPcm s (a + k) = .error f) :
    readPcmList s a n = .error f := by
  induction n generalizing a k with
  | zero => omega
  | succ n ih =>
    rw [readPcmList]
    cases k with
    | zero => rw [show readPcm s a = .error f from hf]
    | succ k =>
      obtain ⟨v, hv⟩ := h a (by omega) (by omega)
      have hrest : readPcmList s (a + 1) n = .error f :=
        ih (k := k) (by omega) (fun i h1 h2 => h i (by omega) (by omega))
          (by rw [Nat.add_assoc, Nat.add_comm 1 k]; exact hf)
      rw [hv, hrest]

theorem blk_pos (m : Mode) : 0 < m.blk := by cases m <;> decide

theorem blk_le (m : Mode) : m.blk ≤ 640 := by cases m <;> decide

theorem exec_loadPcm_ok {s : State} {xs : List (BitVec 16)}
    (h : readPcmList s (s.seq.frame * s.e.mode.blk) s.e.mode.blk = .ok xs) :
    exec .loadPcm s = .next (s.setW { s.w with pcm := vfill s.w.pcm s.e.mode.blk (lget xs) }) := by
  show execLoadPcm s = _
  simp only [execLoadPcm, h]

theorem exec_loadPcm_error {s : State} {f : Fault}
    (h : readPcmList s (s.seq.frame * s.e.mode.blk) s.e.mode.blk = .error f) :
    exec .loadPcm s = .fault f := by
  show execLoadPcm s = _
  simp only [execLoadPcm, h]

/-- Settles O25: the block's read answers, or ends at its first sample without a value. -/
theorem loadPcmCopiesTheFrameOrFaults : Obligations.LoadPcmCopiesTheFrameOrFaults := by
  intro s n base
  refine ⟨fun hready hcap => ?_, fun k hk hready hcap hnone => ?_, fun hcap => ?_⟩
  · refine ⟨_, exec_loadPcm_ok (readPcmList_ok hready hcap), fun i hi => ?_,
      fun i hi => vget_vfill_ge _ _ hi⟩
    obtain ⟨v, hv⟩ := Option.isSome_iff_exists.mp (hready (base + i) (by omega) (by omega))
    have hlt : i < 640 := Nat.lt_of_lt_of_le hi (blk_le _)
    rw [vget_vfill_lt _ _ hi hlt, lget_map_range, if_pos hi, hv, Option.getD_some]
  · refine exec_loadPcm_error (readPcmList_error (a := base) hk (fun i h1 h2 => ?_)
      (readPcm_unwritten hnone hcap))
    obtain ⟨v, hv⟩ := Option.isSome_iff_exists.mp (hready i h1 h2)
    exact ⟨v, readPcm_of_read hv (by omega)⟩
  · exact exec_loadPcm_error (readPcmList_error (a := base) (k := 0) (blk_pos _)
      (fun i h1 h2 => by omega) (readPcm_outside hcap))

/-! ## The reciprocal decomposition -/

theorem composite_append (base : Nat) (ks : List Nat) (k : Nat) :
    composite base (ks ++ [k]) = composite base ks * base + k := by simp [composite]

/-- A composite index of `n` bins is below `base ^ n` (30_encoding.md R115). -/
theorem composite_lt {base : Nat} {ks : List Nat} (h : ∀ k ∈ ks, k < base) :
    composite base ks < base ^ ks.length := by
  induction ks using List.reverseRecOn with
  | nil => simp [composite]
  | append_singleton ks k ih =>
    have hk : k < base := h k (by simp)
    have hks : composite base ks < base ^ ks.length := ih fun x hx => h x (by simp [hx])
    rw [composite_append, List.length_append, List.length_singleton, Nat.pow_succ]
    calc composite base ks * base + k < composite base ks * base + base := Nat.add_lt_add_left hk _
      _ = (composite base ks + 1) * base := (Nat.succ_mul _ _).symm
      _ ≤ base ^ ks.length * base := Nat.mul_le_mul_right _ hks

/-- Where the reciprocal divides exactly, the digits come back last one first (46_vector_quantizer.md
R335). -/
theorem decomposeFrom_composite {kinv base n : Nat}
    (hdiv : ∀ p < base ^ n, p * kinv / 32768 = p / base) {ks : List Nat} (h : ∀ k ∈ ks, k < base)
    (hn : ks.length ≤ n) (found : List Nat) (nz : Nat) :
    decomposeFrom kinv base ks.length (composite base ks) found nz =
      (ks ++ found, nz + ks.countP fun k => k != 0) := by
  induction ks using List.reverseRecOn generalizing found nz with
  | nil => rfl
  | append_singleton ks k ih =>
    have hk : k < base := h k (by simp)
    have hlt : composite base (ks ++ [k]) < base ^ n :=
      Nat.lt_of_lt_of_le (composite_lt h) (Nat.pow_le_pow_right (by omega) hn)
    have hq : composite base (ks ++ [k]) * kinv / 32768 = composite base ks := by
      rw [hdiv _ hlt, composite_append, Nat.mul_comm, Nat.mul_add_div (by omega),
        Nat.div_eq_of_lt hk, Nat.add_zero]
    have hdigit : composite base (ks ++ [k]) - composite base ks * base = k := by
      rw [composite_append, Nat.add_sub_cancel_left]
    rw [List.length_append, List.length_singleton, decomposeFrom]
    simp only [hq, hdigit]
    rw [ih (fun x hx => h x (by simp [hx])) (by simp at hn; omega)]
    simp only [List.append_assoc, List.singleton_append, List.countP_append, List.countP_singleton]
    by_cases h0 : k = 0
    · simp [h0]
    · simp [h0]; omega

/-- Settles O50. -/
theorem decompositionInvertsTheCompositeIndex : Obligations.DecompositionInvertsTheCompositeIndex := by
  intro rom c ks hrom hc hlen hks
  obtain ⟨-, -, hdiv⟩ := hrom
  rw [decompose, ← hlen]
  have h := decomposeFrom_composite (n := ks.length) (by rw [hlen]; exact hdiv c hc)
    (fun k hk => Nat.lt_succ_of_le (hks k hk)) (Nat.le_refl _) [] 0
  simpa using h

end Sys2Proof.Machine
end

section
/-! PROOF. Two runs that differ in the frame working registers only: which registers the two runs agree on
after each micro-operation (10_state.md R36, 70_reset_and_hazards.md R441). -/

namespace Sys2Proof.Machine

/-! ## Two runs -/

/-- The outcomes are of one kind; two next states differ in `W` only, in the way `Q` says. -/
def TwoRuns (Q : State → WorkRegs → Prop) : Result → Result → Prop
  | .next s, .next t => ∃ w, t = s.setW w ∧ Q s w
  | .fault f, .fault g => f = g
  | .refused f, .refused g => f = g
  | _, _ => False

/-- From two states that differ in `W` as `Q` says, the meaning answers two outcomes that differ as `R`
says. -/
def Carries (Q R : State → WorkRegs → Prop) (m : State → Result) : Prop :=
  ∀ s w, Q s w → TwoRuns R (m s) (m (s.setW w))

section
variable {Q R S : State → WorkRegs → Prop}

theorem TwoRuns.cases {a b : Result} (h : TwoRuns Q a b) :
    (∃ s w, a = .next s ∧ b = .next (s.setW w) ∧ Q s w) ∨ (∃ f, a = .fault f ∧ b = .fault f) ∨
      ∃ r, a = .refused r ∧ b = .refused r := by
  cases a with
  | next s =>
    cases b with
    | next t =>
      obtain ⟨w, rfl, hQ⟩ := h
      exact .inl ⟨s, w, rfl, rfl, hQ⟩
    | _ => exact h.elim
  | fault f =>
    cases b with
    | fault g => exact .inr (.inl ⟨f, rfl, congrArg _ (Eq.symm h)⟩)
    | _ => exact h.elim
  | refused r =>
    cases b with
    | refused q => exact .inr (.inr ⟨r, rfl, congrArg _ (Eq.symm h)⟩)
    | _ => exact h.elim

theorem TwoRuns.mono (h : ∀ s w, Q s w → R s w) {a b : Result} (hab : TwoRuns Q a b) : TwoRuns R a b := by
  rcases hab.cases with ⟨s, w, rfl, rfl, hQ⟩ | ⟨f, rfl, rfl⟩ | ⟨r, rfl, rfl⟩
  · exact ⟨w, rfl, h s w hQ⟩
  · rfl
  · rfl

theorem TwoRuns.thenDo {a b : Result} {f : State → Result} (h : TwoRuns Q a b) (hf : Carries Q R f) :
    TwoRuns R (thenDo a f) (thenDo b f) := by
  rcases h.cases with ⟨s, w, rfl, rfl, hQ⟩ | ⟨e, rfl, rfl⟩ | ⟨r, rfl, rfl⟩
  · exact hf s w hQ
  · rfl
  · rfl

/-- Two runs that write `W` only. -/
theorem TwoRuns.work {s : State} {w a b : WorkRegs} (h : Q (s.setW a) b) :
    TwoRuns Q (.next (s.setW a)) (.next ((s.setW w).setW b)) := ⟨b, rfl, h⟩

theorem TwoRuns.ite {p : Prop} [Decidable p] {a a' c c' : Result} (h : p → TwoRuns Q a c)
    (h' : ¬p → TwoRuns Q a' c') : TwoRuns Q (if p then a else a') (if p then c else c') := by
  split
  next hp => exact h hp
  next hp => exact h' hp

theorem Carries.mono_left (h : ∀ s w, Q s w → R s w) {m : State → Result} (hm : Carries R S m) :
    Carries Q S m := fun s w hQ => hm s w (h s w hQ)

theorem Carries.nil : Carries Q Q (runAll []) := fun _ w hQ => ⟨w, rfl, hQ⟩

theorem Carries.cons {m : State → Result} {ms : List (State → Result)} (hm : Carries Q R m)
    (hms : Carries R S (runAll ms)) : Carries Q S (runAll (m :: ms)) :=
  fun s w hQ => (hm s w hQ).thenDo hms

/-- Two frame loops, each frame from any two contents of `W`. -/
theorem Carries.frameLoop {frame : State → Result} (hf : ∀ s w f, Q s w → Q (s.setFrame f) w)
    (h : Carries Q Q frame) (k f : Nat) : Carries Q Q (frameLoop frame k f) := by
  induction k generalizing f with
  | zero => exact fun _ w hQ => ⟨w, rfl, hQ⟩
  | succ k ih => exact fun s w hQ => (h (s.setFrame f) w (hf s w f hQ)).thenDo (ih (f + 1))

end

/-! ## Agreement of registers -/

/-- The first `n` elements of two arrays are the same. -/
def AgreeUpTo {α : Type} [Inhabited α] {k : Nat} (n : Nat) (v u : Vector α k) : Prop :=
  ∀ i < n, vget v i = vget u i

/-- The first `n` elements of the build's face are the same (log entry 6). -/
def SigReg.AgreeUpTo {k : Nat} (b : Backend) (n : Nat) (x y : SigReg k) : Prop :=
  (b = .fixed → Machine.AgreeUpTo n x.fx y.fx) ∧ (b = .float → Machine.AgreeUpTo n x.fl y.fl)

/-- The frame working registers two runs may agree on: `goodMagsh` is `W.MAGSH` unless the frame is bad, and
`header` what `PWR_DEC` decodes unless it met the frame's end. -/
inductive WorkReg where
  | pcm | u | x | coef | news | out | magsh | goodMagsh | abs | sym | env | envbits | sd | avail | cat0 | cat
  | bal | catctl | header | rbits | randsnap | underrun | ferr

/-- The two contents of a register agree on the part that a command in mode `m` uses. A balance entry is a
region, and the control value is one of the mode's. -/
def WorkReg.Agrees (m : Mode) (b : Backend) (w v : WorkRegs) : WorkReg → Prop
  | .pcm => AgreeUpTo m.blk w.pcm v.pcm
  | .u => w.u.AgreeUpTo b m.blk v.u
  | .x => w.x.AgreeUpTo b m.blk v.x
  | .coef => w.coef.AgreeUpTo b m.blk v.coef
  | .news => w.news.AgreeUpTo b m.blk v.news
  | .out => w.out.AgreeUpTo b m.blk v.out
  | .magsh => w.magsh = v.magsh
  | .goodMagsh => w.ferr = 0#4 → w.magsh = v.magsh
  | .abs => AgreeUpTo m.nreg w.abs v.abs
  | .sym => AgreeUpTo m.nreg w.sym v.sym
  | .env => w.env = v.env
  | .envbits => w.envbits = v.envbits
  | .sd => w.sd.AgreeUpTo b m.nreg v.sd
  | .avail => w.avail = v.avail
  | .cat0 => AgreeUpTo m.nreg w.cat0 v.cat0
  | .cat => AgreeUpTo m.nreg w.cat v.cat
  | .bal => AgreeUpTo (m.nposs - 1) w.bal v.bal ∧ ∀ i < m.nposs - 1, (vget w.bal i).val < m.nreg
  | .catctl => w.catctl = v.catctl ∧ w.catctl.val < m.nposs
  | .header => w.ferr &&& ferrOverrun = 0#4 →
      AgreeUpTo m.nreg w.abs v.abs ∧ w.catctl = v.catctl ∧ w.catctl.val < m.nposs
  | .rbits => AgreeUpTo m.nreg w.rbits v.rbits
  | .randsnap => w.randsnap = v.randsnap
  | .underrun => w.underrun = v.underrun
  | .ferr => w.ferr = v.ferr

/-- The running command works on this side, in this mode and backend, with category metadata of a conforming
ROM. -/
structure InMode (side : Side) (m : Mode) (b : Backend) (s : State) : Prop where
  side : runSide s = side
  mode : runMode s = m
  backend : s.build.backend = b
  rom : categoryWf s.build.rom

/-- The two runs agree on these registers. -/
def Live (side : Side) (m : Mode) (b : Backend) (l : List WorkReg) (s : State) (w : WorkRegs) : Prop :=
  InMode side m b s ∧ ∀ r ∈ l, r.Agrees m b s.w w

section
variable {side : Side} {m : Mode} {b : Backend} {s : State}

theorem InMode.setW (h : InMode side m b s) (w : WorkRegs) : InMode side m b (s.setW w) :=
  ⟨h.side, h.mode, h.backend, h.rom⟩

theorem InMode.setE (h : InMode side m b s) {e : Encoder} (he : e.mode = s.e.mode) :
    InMode side m b (s.setE e) := by
  refine ⟨h.side, ?_, h.backend, h.rom⟩
  rw [← h.mode, runMode, runMode, State.setE_e, State.setE_d, he]
  rfl

theorem InMode.setD (h : InMode side m b s) {d : Decoder} (hd : d.mode = s.d.mode) :
    InMode side m b (s.setD d) := by
  refine ⟨h.side, ?_, h.backend, h.rom⟩
  rw [← h.mode, runMode, runMode, State.setD_d, State.setD_e, hd]
  rfl

theorem InMode.setSeq (h : InMode side m b s) {q : SeqRegs} (hq : q.cmd = s.seq.cmd) :
    InMode side m b (s.setSeq q) := by
  have hside : runSide (s.setSeq q) = runSide s := by rw [runSide, runSide, State.setSeq_seq, hq]
  refine ⟨hside.trans h.side, ?_, h.backend, h.rom⟩
  rw [← h.mode, runMode, runMode, hside]
  rfl

theorem InMode.setBs (h : InMode side m b s) (k : List Host.Cell) : InMode side m b (s.setBs k) :=
  ⟨h.side, h.mode, h.backend, h.rom⟩

theorem InMode.setPcm (h : InMode side m b s) (k : Memory 16) : InMode side m b (s.setPcm k) :=
  ⟨h.side, h.mode, h.backend, h.rom⟩

theorem InMode.enc_mode (h : InMode .enc m b s) : s.e.mode = m := by
  rw [← h.mode, runMode, h.side]

theorem InMode.dec_mode (h : InMode .dec m b s) : s.d.mode = m := by
  rw [← h.mode, runMode, h.side]

theorem Live.mono {l l' : List WorkReg} {w : WorkRegs} (h : Live side m b l s w) (hl : l' ⊆ l) :
    Live side m b l' s w := ⟨h.1, fun r hr => h.2 r (hl hr)⟩

theorem live_nil {w : WorkRegs} : Live side m b [] s w ↔ InMode side m b s := by simp [Live]

theorem live_cons {r : WorkReg} {l : List WorkReg} {w : WorkRegs} :
    Live side m b (r :: l) s w ↔ r.Agrees m b s.w w ∧ Live side m b l s w := by
  simp only [Live, List.forall_mem_cons]
  exact and_left_comm

/-- A micro-operation in its turn: `SEQ.PHASE` is no working register. -/
theorem Carries.uop {R : State → WorkRegs → Prop} {l : List WorkReg} {k : State → Result} (i : Instr)
    (h : Carries (Live side m b l) R k) : Carries (Live side m b l) R (uop i k) :=
  fun s w hQ => h (s.setPhase (phaseOf i)) w ⟨hQ.1.setSeq rfl, hQ.2⟩

end

/-! ## Signal registers -/

theorem SigReg.agreeUpTo_put {k n : Nat} {b : Backend} {x y : SigReg k} {fx gx : Vector I16 k}
    {fl gl : Vector FVal k} (hx : b = .fixed → Machine.AgreeUpTo n fx gx)
    (hl : b = .float → Machine.AgreeUpTo n fl gl) : (x.put b fx fl).AgreeUpTo b n (y.put b gx gl) := by
  cases b
  · exact ⟨hx, nofun⟩
  · exact ⟨nofun, hl⟩

theorem SigReg.put_congr {k : Nat} {b : Backend} (x : SigReg k) {fx gx : Vector I16 k}
    {fl gl : Vector FVal k} (hx : b = .fixed → fx = gx) (hl : b = .float → fl = gl) :
    x.put b fx fl = x.put b gx gl := by
  cases b
  · simp only [SigReg.put, hx rfl]
  · simp only [SigReg.put, hl rfl]

/-- Two fills of the same part agree on it where their functions do. -/
theorem agreeUpTo_vfill {α : Type} [Inhabited α] {k n : Nat} (hn : n ≤ k) (v u : Vector α k)
    {f g : Nat → α} (h : ∀ i < n, f i = g i) : AgreeUpTo n (vfill v n f) (vfill u n g) := by
  intro i hi
  rw [vget_vfill_lt _ _ hi (by omega), vget_vfill_lt _ _ hi (by omega), h i hi]

theorem nreg_le (m : Mode) : m.nreg ≤ 28 := by cases m <;> decide

theorem nreg_pos (m : Mode) : 0 < m.nreg := by cases m <;> decide

theorem nposs_le (m : Mode) : m.nposs ≤ 32 := by cases m <;> decide

/-- The coded regions lie inside the block (00_scope.md R6, R17). -/
theorem nreg_mul_le_blk (m : Mode) : 20 * m.nreg ≤ m.blk := by cases m <;> decide

/-! ## The encoder up to the coefficients -/

theorem foldFixed_congr {win : Nat → I16} {n : Nat} {old new new' : Nat → I16}
    (h : ∀ i < n, new i = new' i) {p : Nat} (hp : p < n) :
    foldFixed win n old new p = foldFixed win n old new' p := by
  simp only [foldFixed]
  split
  · rfl
  · rw [h _ (by omega), h _ (by omega)]

theorem foldFloat_congr {win : Nat → FVal} {n : Nat} {old new new' : Nat → FVal}
    (h : ∀ i < n, new i = new' i) {p : Nat} (hp : p < n) :
    foldFloat win n old new p = foldFloat win n old new' p := by
  simp only [foldFloat]
  split
  · rfl
  · rw [h _ (by omega), h _ (by omega)]

theorem peakOf_congr {u v : Nat → I16} {n : Nat} (h : ∀ i < n, u i = v i) : peakOf u n = peakOf v n :=
  List.foldl_ext _ _ _ fun _ i hi => by rw [h i (List.mem_range.mp hi)]

theorem absSum_congr {u v : Nat → I16} {n : Nat} (h : ∀ i < n, u i = v i) : absSum u n = absSum v n :=
  List.foldl_ext _ _ _ fun _ i hi => by rw [h i (List.mem_range.mp hi)]

theorem vtake_congr {α : Type} [Inhabited α] {k n : Nat} {v u : Vector α k} (h : AgreeUpTo n v u) :
    vtake v n = vtake u n := by
  apply vec_ext_vget
  intro i hi
  simp only [vget_vtake, if_pos hi, h i hi]

theorem agreeUpTo_transformReg {α : Type} [Inhabited α] (m : Mode)
    (f : Vector α m.blk → Vector α m.blk) {src src' : Vector α 640} (dst dst' : Vector α 640)
    (h : AgreeUpTo m.blk src src') :
    AgreeUpTo m.blk (transformReg m f src dst) (transformReg m f src' dst') := by
  refine agreeUpTo_vfill (blk_le m) dst dst' fun i _ => ?_
  rw [vtake_congr h]

theorem energyFixed_congr {u v : Nat → I16} {r : Nat} (h : ∀ j < 20, u (20 * r + j) = v (20 * r + j)) :
    energyFixed u r = energyFixed v r :=
  List.foldl_ext _ _ _ fun _ j hj => by rw [h j (List.mem_range.mp hj)]

theorem meanSquare_congr {u v : Nat → FVal} {r : Nat} (h : ∀ j < 20, u (20 * r + j) = v (20 * r + j)) :
    meanSquare u r = meanSquare v r := by
  rw [meanSquare, meanSquare]
  congr 1
  exact List.foldl_ext _ _ _ fun _ j hj => by rw [h j (List.mem_range.mp hj)]

theorem readPcmList_setW (s : State) (w : WorkRegs) (a n : Nat) :
    readPcmList (s.setW w) a n = readPcmList s a n := by
  induction n generalizing a with
  | zero => rfl
  | succ n ih => rw [readPcmList, readPcmList, ih]; rfl

section
variable {m : Mode} {b : Backend}

theorem execLoadPcm_carries : Carries (Live .enc m b []) (Live .enc m b [.pcm]) execLoadPcm := by
  intro s w hin
  rw [live_nil] at hin
  simp only [execLoadPcm, State.setW_e, State.setW_seq, readPcmList_setW]
  split
  · rfl
  · refine .work ?_
    simp only [live_cons, live_nil, WorkReg.Agrees, State.setW_w, hin.enc_mode]
    exact ⟨agreeUpTo_vfill (blk_le m) _ _ fun _ _ => rfl, hin.setW _⟩

theorem execWinAna_carries : Carries (Live .enc m b [.pcm]) (Live .enc m b [.u]) execWinAna := by
  intro s w h
  simp only [live_cons, live_nil, WorkReg.Agrees, AgreeUpTo] at h
  obtain ⟨hpcm, hin⟩ := h
  have hsample : ∀ i < m.blk, floatOfSample (vget s.w.pcm i) = floatOfSample (vget w.pcm i) :=
    fun i hi => by rw [hpcm i hi]
  have hhist : s.e.hist.put b (vfill s.e.hist.fx m.blk (vget s.w.pcm))
      (vfill s.e.hist.fl m.blk fun i => floatOfSample (vget s.w.pcm i)) =
      s.e.hist.put b (vfill s.e.hist.fx m.blk (vget w.pcm))
      (vfill s.e.hist.fl m.blk fun i => floatOfSample (vget w.pcm i)) :=
    SigReg.put_congr _ (fun _ => vfill_congr _ _ hpcm) fun _ => vfill_congr _ _ hsample
  simp only [execWinAna, State.setW_e, State.setW_build, State.setW_w, hin.enc_mode, hin.backend, hhist]
  refine ⟨_, rfl, ?_⟩
  simp only [live_cons, live_nil, WorkReg.Agrees, State.setE_w, State.setW_w]
  exact ⟨SigReg.agreeUpTo_put
    (fun _ => agreeUpTo_vfill (blk_le m) _ _ fun p hp => foldFixed_congr hpcm hp)
    (fun _ => agreeUpTo_vfill (blk_le m) _ _ fun p hp => foldFloat_congr hsample hp),
    (hin.setW _).setE hin.enc_mode.symm⟩

theorem chosenShift_congr {s : State} {w : WorkRegs} (hin : InMode .enc m b s)
    (hu : s.w.u.AgreeUpTo b m.blk w.u) : chosenShift (s.setW w) = chosenShift s := by
  simp only [chosenShift, State.setW_build, State.setW_e, State.setW_w, hin.backend, hin.enc_mode]
  cases b with
  | fixed => simp only [peakOf_congr (hu.1 rfl), absSum_congr (hu.1 rfl)]
  | float => rfl

theorem execHeadroom_carries :
    Carries (Live .enc m b [.u]) (Live .enc m b [.magsh, .x]) execHeadroom := by
  intro s w h
  simp only [live_cons, live_nil, WorkReg.Agrees] at h
  obtain ⟨hu, hin⟩ := h
  have hshift (k : Int) (hb : b = .fixed) :
      ∀ i < m.blk, shiftBy k (vget s.w.u.fx i) = shiftBy k (vget w.u.fx i) :=
    fun i hi => by rw [hu.1 hb i hi]
  simp only [execHeadroom, chosenShift_congr hin hu, State.setW_build, State.setW_e, State.setW_w,
    hin.backend, hin.enc_mode]
  refine .work ?_
  simp only [live_cons, live_nil, WorkReg.Agrees, State.setW_w, true_and]
  exact ⟨SigReg.agreeUpTo_put (fun hb => agreeUpTo_vfill (blk_le m) _ _ (hshift _ hb))
    (fun hb => agreeUpTo_vfill (blk_le m) _ _ (hu.2 hb)), hin.setW _⟩

theorem execDct4Fwd_carries :
    Carries (Live .enc m b [.magsh, .x]) (Live .enc m b [.magsh, .coef]) execDct4Fwd := by
  intro s w h
  simp only [live_cons, live_nil, WorkReg.Agrees] at h
  obtain ⟨hmag, hx, hin⟩ := h
  obtain rfl := hin.enc_mode
  simp only [execDct4Fwd, State.setW_build, State.setW_e, State.setW_w, hin.backend]
  refine .work ?_
  simp only [live_cons, live_nil, WorkReg.Agrees, State.setW_w]
  exact ⟨hmag, SigReg.agreeUpTo_put (fun hb => agreeUpTo_transformReg _ _ _ _ (hx.1 hb))
    (fun hb => agreeUpTo_transformReg _ _ _ _ (hx.2 hb)), hin.setW _⟩

theorem execPwrEst_carries :
    Carries (Live .enc m b [.magsh, .coef]) (Live .enc m b [.magsh, .coef, .abs]) execPwrEst := by
  intro s w h
  simp only [live_cons, live_nil, WorkReg.Agrees] at h
  obtain ⟨hmag, hcoef, hin⟩ := h
  have hblk := nreg_mul_le_blk m
  simp only [execPwrEst, State.setW_build, State.setW_e, State.setW_w, hin.backend, hin.enc_mode]
  refine .work ?_
  simp only [live_cons, live_nil, WorkReg.Agrees, State.setW_w]
  refine ⟨hmag, hcoef, agreeUpTo_vfill (nreg_le m) _ _ fun r hr => ?_, hin.setW _⟩
  cases b with
  | fixed =>
    have henergy : energyFixed (vget s.w.coef.fx) r = energyFixed (vget w.coef.fx) r :=
      energyFixed_congr fun j hj => hcoef.1 rfl _ (by omega)
    simp only [rawIndexFixed, henergy, hmag]
  | float =>
    have hmean : meanSquare (vget s.w.coef.fl) r = meanSquare (vget w.coef.fl) r :=
      meanSquare_congr fun j hj => hcoef.2 rfl _ (by omega)
    simp only [rawIndexFloat, hmean]

end

/-! ## The envelope and the bit allocation -/

theorem absList_congr {w v : WorkRegs} {n : Nat} (h : AgreeUpTo n w.abs v.abs) :
    absList w n = absList v n :=
  List.map_congr_left fun r hr => by rw [h r (List.mem_range.mp hr)]

theorem envelopeBits_congr (rom : Rom) {sym sym' : Nat → Nat} {n : Nat} (hn : 0 < n)
    (h : ∀ r < n, sym r = sym' r) : envelopeBits rom sym n = envelopeBits rom sym' n := by
  rw [envelopeBits, envelopeBits, h 0 hn]
  congr 1
  refine List.flatMap_congr fun r hr => ?_
  have hr : r < n - 1 := List.mem_range.mp hr
  rw [h (r + 1) (by omega)]

theorem envelopeLength_congr (rom : Rom) {sym sym' : Nat → Nat} {n : Nat}
    (h : ∀ r < n, sym r = sym' r) : envelopeLength rom sym n = envelopeLength rom sym' n := by
  rw [envelopeLength, envelopeLength]
  congr 2
  refine List.map_congr_left fun r hr => ?_
  have hr : r < n - 1 := List.mem_range.mp hr
  rw [h (r + 1) (by omega)]

section
variable {m : Mode} {b : Backend}

theorem execPwrAdj_carries :
    Carries (Live .enc m b [.magsh, .coef, .abs]) (Live .enc m b [.magsh, .coef, .abs, .sym])
      execPwrAdj := by
  intro s w h
  simp only [live_cons, live_nil, WorkReg.Agrees] at h
  obtain ⟨hmag, hcoef, habs, hin⟩ := h
  simp only [execPwrAdj, State.setW_e, State.setW_w, hin.enc_mode, absList_congr habs]
  refine .work ?_
  simp only [live_cons, live_nil, WorkReg.Agrees, State.setW_w]
  exact ⟨hmag, hcoef, agreeUpTo_vfill (nreg_le m) _ _ fun _ _ => rfl,
    agreeUpTo_vfill (nreg_le m) _ _ fun _ _ => rfl, hin.setW _⟩

theorem execPwrEnc_carries :
    Carries (Live .enc m b [.magsh, .coef, .abs, .sym])
      (Live .enc m b [.magsh, .coef, .abs, .env, .envbits]) execPwrEnc := by
  intro s w h
  simp only [live_cons, live_nil, WorkReg.Agrees] at h
  obtain ⟨hmag, hcoef, habs, hsym, hin⟩ := h
  have hval : ∀ r < m.nreg, (vget s.w.sym r).val = (vget w.sym r).val :=
    fun r hr => by rw [hsym r hr]
  simp only [execPwrEnc, State.setW_build, State.setW_e, State.setW_w, hin.enc_mode]
  refine .work ?_
  simp only [live_cons, live_nil, WorkReg.Agrees, State.setW_w]
  exact ⟨hmag, hcoef, habs, envelopeBits_congr _ (nreg_pos m) hval, envelopeLength_congr _ hval,
    hin.setW _⟩

theorem encAvail_carries :
    Carries (Live .enc m b [.magsh, .coef, .abs, .env, .envbits])
      (Live .enc m b [.magsh, .coef, .abs, .env, .avail]) (act encAvail) := by
  intro s w h
  simp only [live_cons, live_nil, WorkReg.Agrees] at h
  obtain ⟨hmag, hcoef, habs, henv, hbits, hin⟩ := h
  refine ⟨_, rfl, ?_⟩
  simp only [live_cons, live_nil, WorkReg.Agrees, encAvail_w, State.setW_w, State.setW_e, hbits]
  exact ⟨hmag, hcoef, habs, henv, rfl, hin.setW _⟩

end

end Sys2Proof.Machine
end

section
/-! PROOF. The bit allocation and the end of an encoded frame in two runs (45_categorization.md,
47_frame_commands.md R371). -/

namespace Sys2Proof.Machine

/-! ## Bit allocation -/

section
variable {abs abs' : Nat → Int} {n : Nat}

theorem expectedBits_congr (expbits : Nat → Nat) (h : ∀ r < n, abs r = abs' r) (t : Int) :
    expectedBits expbits abs n t = expectedBits expbits abs' n t := by
  rw [expectedBits, expectedBits]
  congr 2
  refine List.map_congr_left fun r hr => ?_
  rw [rawCat, rawCat, h r (List.mem_range.mp hr)]

theorem slack_congr (offset : Int) {r : Nat} (h : abs r = abs' r) (c : Nat) :
    slack offset abs r c = slack offset abs' r c := by rw [slack, slack, h]

theorem promoteChoice_congr (offset : Int) (h : ∀ r < n, abs r = abs' r) (cat : List Nat) :
    promoteChoice offset abs n cat = promoteChoice offset abs' n cat := by
  rw [promoteChoice, promoteChoice]
  congr 1
  refine List.foldl_ext _ _ _ fun p r hr => ?_
  rw [slack_congr offset (h r (List.mem_range.mp hr))]

theorem demoteChoice_congr (offset : Int) (h : ∀ r < n, abs r = abs' r) (cat : List Nat) :
    demoteChoice offset abs n cat = demoteChoice offset abs' n cat := by
  rw [demoteChoice, demoteChoice]
  congr 1
  refine List.foldr_ext _ _ _ fun r hr p => ?_
  rw [slack_congr offset (h r (List.mem_range.mp hr))]

theorem rebalanceStep_congr (expbits : Nat → Nat) (offset k : Int) (h : ∀ r < n, abs r = abs' r) :
    rebalanceStep expbits offset k abs n = rebalanceStep expbits offset k abs' n := by
  funext q
  rw [rebalanceStep, rebalanceStep, promoteChoice_congr offset h, demoteChoice_congr offset h]

theorem baseline_congr (expbits : Nat → Nat) (offset : Int) (h : ∀ r < n, abs r = abs' r) :
    baseline expbits offset abs n = baseline expbits offset abs' n := by
  have hcat : (List.range n).map (rawCat abs offset) = (List.range n).map (rawCat abs' offset) :=
    List.map_congr_left fun r hr => by rw [rawCat, rawCat, h r (List.mem_range.mp hr)]
  simp only [baseline, hcat, expectedBits_congr expbits h]

theorem categorization_congr (expbits : Nat → Nat) (m : Mode) (h : ∀ r < m.nreg, abs r = abs' r)
    (avail : Int) : categorization expbits m abs avail = categorization expbits m abs' avail := by
  have hbits : expectedBits expbits abs m.nreg = expectedBits expbits abs' m.nreg :=
    funext (expectedBits_congr expbits h)
  simp only [categorization, hbits, rebalanceStep_congr expbits _ _ h, baseline_congr expbits _ h]

theorem promoteChoice_lt (offset : Int) (abs : Nat → Int) (hn : 0 < n) (cat : List Nat) :
    promoteChoice offset abs n cat < n := by
  rw [promoteChoice]
  refine List.foldlRecOn (motive := fun p : Int × Nat => p.2 < n) _ _ hn fun p hp r hr => ?_
  have hr := List.mem_range.mp hr
  grind

theorem demoteChoice_lt (offset : Int) (abs : Nat → Int) (hn : 0 < n) (cat : List Nat) :
    demoteChoice offset abs n cat < n := by
  rw [demoteChoice]
  refine List.foldrRecOn (motive := fun p : Int × Nat => p.2 < n) _ _ hn fun p hp r hr => ?_
  have hr := List.mem_range.mp hr
  grind

theorem rebalanceStep_bal (expbits : Nat → Nat) (offset k : Int) (abs : Nat → Int) (hn : 0 < n)
    {q : Rebalance} (h : ∀ x ∈ q.bal, x < n) :
    ∀ x ∈ (rebalanceStep expbits offset k abs n q).bal, x < n := by
  have hp := promoteChoice_lt offset abs hn q.mx
  have hd := demoteChoice_lt offset abs hn q.mn
  simp only [rebalanceStep, promote, demote]
  grind

theorem rebalance_bal (expbits : Nat → Nat) (offset k : Int) (abs : Nat → Int) (hn : 0 < n) (j : Nat)
    {q : Rebalance} (h : ∀ x ∈ q.bal, x < n) :
    ∀ x ∈ (rebalance (rebalanceStep expbits offset k abs n) j q).bal, x < n := by
  induction j generalizing q with
  | zero => exact h
  | succ j ih => exact ih (rebalanceStep_bal expbits offset k abs hn h)

/-- Every balance entry is a region (R306). -/
theorem categorization_bal (expbits : Nat → Nat) (m : Mode) (abs : Nat → Int) (avail : Int) (i : Nat) :
    lget (categorization expbits m abs avail).2.bal i < m.nreg := by
  have hbal := rebalance_bal expbits (offsetSearch (expectedBits expbits abs m.nreg) (budgetOf m avail))
    (budgetOf m avail) abs (nreg_pos m) (m.nposs - 1)
    (q := baseline expbits (offsetSearch (expectedBits expbits abs m.nreg) (budgetOf m avail)) abs m.nreg)
    (by simp [baseline])
  by_cases hi : i < (categorization expbits m abs avail).2.bal.length
  · rw [lget_of_lt _ hi]
    exact hbal _ (List.getElem_mem hi)
  · rw [lget_of_ge _ (by omega)]
    exact nreg_pos m

end

section
variable {side : Side} {m : Mode} {b : Backend}

/-- `CATEGORIZE` writes no register of `l`. -/
theorem execCategorize_carries {l : List WorkReg} (hl : ∀ r ∈ l, r ≠ .cat0 ∧ r ≠ .bal)
    (hmem : .avail ∈ l) :
    Carries (Live side m b (.abs :: l)) (Live side m b (.cat0 :: .bal :: .abs :: l)) execCategorize := by
  intro s w h
  obtain ⟨habs, hin, hrest⟩ := live_cons.mp h
  have havail := hrest _ hmem
  simp only [WorkReg.Agrees] at habs havail
  have hcat : categorization (vget s.build.rom.expbits) m (fun r => (vget s.w.abs r).toInt) s.w.avail =
      categorization (vget s.build.rom.expbits) m (fun r => (vget w.abs r).toInt) w.avail := by
    rw [havail]
    exact categorization_congr _ _ (fun r hr => by rw [habs r hr]) _
  have hmode : runMode (s.setW w) = m := (hin.setW w).mode
  simp only [execCategorize, hmode, hin.mode, State.setW_build, State.setW_w, hcat]
  refine .work ?_
  simp only [live_cons, WorkReg.Agrees, State.setW_w]
  have hn := nreg_le m
  have hposs := nposs_le m
  refine ⟨agreeUpTo_vfill hn _ _ fun _ _ => rfl,
    ⟨agreeUpTo_vfill (by omega) _ _ fun _ _ => rfl, fun i hi => ?_⟩, habs, hin.setW _, fun r hr => ?_⟩
  · have hbal := categorization_bal (vget s.build.rom.expbits) m (fun r => (vget w.abs r).toInt) w.avail i
    rw [vget_vfill_lt _ _ hi (by omega), Fin.val_ofNat, Nat.mod_eq_of_lt (by omega)]
    exact hbal
  · have hr' := hrest r hr
    cases r with
    | cat0 => exact absurd rfl (hl _ hr).1
    | bal => exact absurd rfl (hl _ hr).2
    | _ => simpa only [WorkReg.Agrees, State.setW_w] using hr'

end

/-! ## The rate loop -/

theorem AgreeUpTo.vset {α : Type} [Inhabited α] {k n : Nat} {v u : Vector α k} (h : AgreeUpTo n v u)
    (r : Nat) (x : α) : AgreeUpTo n (vset v r x) (vset u r x) := by
  intro i hi
  rw [vget_vset, vget_vset, h i hi]

theorem quantElem_congr {bd : Build} {coef coef' : SigReg 640} {row c pos n : Nat}
    (h : coef.AgreeUpTo bd.backend n coef') (hp : pos < n) :
    quantElem bd coef row c pos = quantElem bd coef' row c pos := by
  simp only [quantElem]
  split
  next hb => rw [h.1 hb pos hp]
  next hb => rw [h.2 hb pos hp]

/-- A region's code reads the region's coefficients only (R322). -/
theorem regionBits_congr {bd : Build} {coef coef' : SigReg 640} {idxq idxq' : Nat → Nat} {r c n : Nat}
    (hrom : categoryWf bd.rom) (h : coef.AgreeUpTo bd.backend n coef') (hidx : idxq r = idxq' r)
    (hr : 20 * (r + 1) ≤ n) (hc : c ≤ 7) :
    regionBits bd coef idxq r c = regionBits bd coef' idxq' r c := by
  simp only [regionBits, hidx]
  split
  next => rfl
  next h7 =>
    have h20 := hrom.1 c (by omega)
    refine List.flatMap_congr fun k hk => ?_
    have hk := List.mem_range.mp hk
    simp only [vectorBits]
    have helems : ((List.range (vget bd.rom.vdim c)).map fun j =>
        quantElem bd coef (idxq' r) c (20 * r + k * vget bd.rom.vdim c + j)) =
        (List.range (vget bd.rom.vdim c)).map fun j =>
          quantElem bd coef' (idxq' r) c (20 * r + k * vget bd.rom.vdim c + j) := by
      refine List.map_congr_left fun j hj => quantElem_congr h ?_
      have hj := List.mem_range.mp hj
      have hle : (k + 1) * vget bd.rom.vdim c ≤ vget bd.rom.nvec c * vget bd.rom.vdim c :=
        Nat.mul_le_mul_right _ (by omega)
      rw [Nat.add_mul, Nat.one_mul, Nat.mul_comm (vget bd.rom.nvec c)] at hle
      omega
    rw [helems]

theorem catsOf_le (cat0 bal : Nat → Nat) (c r : Nat) : catsOf cat0 bal c r ≤ 7 := Nat.min_le_left _ _

theorem catsOf_congr {cat0 cat0' bal bal' : Nat → Nat} {c r : Nat} (h0 : cat0 r = cat0' r)
    (hb : ∀ i < c, bal i = bal' i) : catsOf cat0 bal c r = catsOf cat0' bal' c r := by
  rw [catsOf, catsOf, h0, replayCount, replayCount]
  congr 2
  refine List.countP_congr fun i hi => ?_
  rw [hb i (List.mem_range.mp hi)]

/-- Two states of the rate loop that agree on what is sent. -/
structure RateState.Agrees (nposs n : Nat) (q q' : RateState) : Prop where
  c : q.c = q'.c
  lt : q.c < nposs
  total : q.total = q'.total
  rbits : AgreeUpTo n q.rbits q'.rbits

section
variable {vq vq' : Nat → Nat → List Bool} {cats cats' : Nat → Nat → Nat} {bal bal' : Nat → Nat}
  {nposs n : Nat} {q q' : RateState}

theorem RateState.Agrees.recode (h : q.Agrees nposs n q') {c r : Nat} (hc : c < nposs) (hr : r < n)
    (hbits : vq r (cats c r) = vq' r (cats' c r)) :
    (recode vq cats c r q).Agrees nposs n (recode vq' cats' c r q') := by
  refine ⟨rfl, hc, ?_, ?_⟩
  · simp only [Machine.recode, hbits, h.total, h.rbits r hr]
  · simp only [Machine.recode, hbits]
    exact h.rbits.vset _ _

variable (hvq : ∀ c < nposs, ∀ r < n, vq r (cats c r) = vq' r (cats' c r))
  (hbal : ∀ i < nposs - 1, bal i = bal' i ∧ bal i < n)
include hvq hbal

theorem RateState.Agrees.finer (h : q.Agrees nposs n q') (avail : Int) (fuel : Nat) :
    (finer vq cats bal avail fuel q).Agrees nposs n (finer vq' cats' bal' avail fuel q') := by
  induction fuel generalizing q q' with
  | zero => exact h
  | succ fuel ih =>
    have hlt := h.lt
    simp only [Machine.finer, ← h.c, ← h.total]
    split
    next hgo =>
      obtain ⟨heq, hn⟩ := hbal (q.c - 1) (by omega)
      rw [← heq]
      exact ih (h.recode (by omega) hn (hvq _ (by omega) _ hn))
    next => exact h

theorem RateState.Agrees.coarser (h : q.Agrees nposs n q') (avail : Int) (fuel : Nat) :
    (coarser vq cats bal avail nposs fuel q).Agrees nposs n
      (coarser vq' cats' bal' avail nposs fuel q') := by
  induction fuel generalizing q q' with
  | zero => exact h
  | succ fuel ih =>
    simp only [Machine.coarser, ← h.c, ← h.total]
    split
    next hgo =>
      obtain ⟨heq, hn⟩ := hbal q.c hgo.2
      rw [← heq]
      exact ih (h.recode (by omega) hn (hvq _ (by omega) _ hn))
    next => exact h

end

/-- `W.IDXQ` as `RATE_ADJ` fills it (R323). -/
def rateRows (s : State) : Vector (Fin 64) 28 :=
  vfill s.w.idxq s.e.mode.nreg fun r => Fin.ofNat 64 (powerRow (vget s.w.abs r) s.w.magsh.toInt)

/-- `VQ_ENC` inside `RATE_ADJ`. -/
def rateBits (s : State) : Nat → Nat → List Bool :=
  regionBits s.build s.w.coef fun r => (vget (rateRows s) r).val

/-- The categories inside `RATE_ADJ`. -/
def rateCats (s : State) : Nat → Nat → Nat :=
  catsOf (fun r => (vget s.w.cat0 r).val) fun i => (vget s.w.bal i).val

/-- The state before the loops of R312. -/
def rateStart (s : State) : RateState :=
  let n := s.e.mode.nreg
  let c0 := s.e.mode.nposs / 2 - 1
  let rbits := vfill s.w.rbits n fun r => rateBits s r (rateCats s c0 r)
  { c := c0, cat := catsReg s.w n c0, rbits := rbits,
    total := (((List.range n).map fun r => (vget rbits r).length).sum : Nat) }

/-- The state after the loops of R312. -/
def rateEnd (s : State) : RateState :=
  let bal := fun i => (vget s.w.bal i).val
  let p := s.e.mode.nposs
  coarser (rateBits s) (rateCats s) bal s.w.avail p p
    (finer (rateBits s) (rateCats s) bal s.w.avail p (rateStart s))

theorem execRateAdj_eq (s : State) :
    execRateAdj s = .next (s.setW { s.w with
      idxq := rateRows s, catctl := Fin.ofNat 32 (rateEnd s).c, cat := (rateEnd s).cat,
      rbits := (rateEnd s).rbits }) := rfl

section
variable {m : Mode} {b : Backend}

section
variable {s : State} {w : WorkRegs}

theorem rateBits_congr
    (h : Live .enc m b [.cat0, .bal, .abs, .avail, .magsh, .coef, .env] s w) :
    ∀ c < m.nposs, ∀ r < m.nreg,
      rateBits s r (rateCats s c r) = rateBits (s.setW w) r (rateCats (s.setW w) c r) := by
  intro c hc r hr
  simp only [live_cons, live_nil, WorkReg.Agrees] at h
  obtain ⟨hcat0, ⟨hbal, hreg⟩, habs, havail, hmag, hcoef, henv, hin⟩ := h
  have hcats : rateCats s c r = rateCats (s.setW w) c r := by
    simp only [rateCats, State.setW_w]
    exact catsOf_congr (by rw [hcat0 r hr]) fun i hi => by rw [hbal i (by omega)]
  have hrow : vget (rateRows s) r = vget (rateRows (s.setW w)) r := by
    simp only [rateRows, State.setW_w, State.setW_e, hin.enc_mode, hmag]
    exact agreeUpTo_vfill (nreg_le m) _ _ (fun q hq => by rw [habs q hq]) r hr
  rw [← hcats]
  simp only [rateBits, State.setW_w, State.setW_build]
  refine regionBits_congr hin.rom (n := m.blk) (by rwa [hin.backend]) (by rw [hrow]) ?_ (catsOf_le _ _ _ _)
  have hblk := nreg_mul_le_blk m
  omega

theorem rateStart_agrees
    (h : Live .enc m b [.cat0, .bal, .abs, .avail, .magsh, .coef, .env] s w) :
    (rateStart s).Agrees m.nposs m.nreg (rateStart (s.setW w)) := by
  have hposs : 0 < m.nposs := by cases m <;> decide
  have hbits := agreeUpTo_vfill (nreg_le m) s.w.rbits w.rbits
    (rateBits_congr h (m.nposs / 2 - 1) (by omega))
  have hmode := h.1.enc_mode
  refine ⟨rfl, ?_, ?_, ?_⟩
  · simp only [rateStart, hmode]
    omega
  · have hlength := List.map_congr_left (l := List.range m.nreg) fun r hr =>
      congrArg List.length (hbits r (List.mem_range.mp hr))
    simp only [rateStart, hmode, State.setW_w, State.setW_e, hlength]
  · simp only [rateStart, hmode, State.setW_w, State.setW_e]
    exact hbits

theorem rateEnd_agrees
    (h : Live .enc m b [.cat0, .bal, .abs, .avail, .magsh, .coef, .env] s w) :
    (rateEnd s).Agrees m.nposs m.nreg (rateEnd (s.setW w)) := by
  have hvq := rateBits_congr h
  have hstart := rateStart_agrees h
  simp only [live_cons, live_nil, WorkReg.Agrees] at h
  obtain ⟨hcat0, ⟨hbal, hreg⟩, habs, havail, hmag, hcoef, henv, hin⟩ := h
  have hentry : ∀ i < m.nposs - 1, (vget s.w.bal i).val = (vget w.bal i).val ∧
      (vget s.w.bal i).val < m.nreg := fun i hi => ⟨by rw [hbal i hi], hreg i hi⟩
  simp only [rateEnd, State.setW_w, State.setW_e, hin.enc_mode, havail]
  exact (hstart.finer hvq hentry _ _).coarser hvq hentry _ _

end

theorem execRateAdj_carries :
    Carries (Live .enc m b [.cat0, .bal, .abs, .avail, .magsh, .coef, .env])
      (Live .enc m b [.env, .catctl, .rbits]) execRateAdj := by
  intro s w h
  obtain ⟨hc, hlt, -, hbits⟩ := rateEnd_agrees h
  simp only [live_cons, live_nil, WorkReg.Agrees] at h
  obtain ⟨-, -, -, -, -, -, henv, hin⟩ := h
  rw [execRateAdj_eq, execRateAdj_eq]
  refine .work ?_
  simp only [live_cons, live_nil, WorkReg.Agrees, State.setW_w]
  refine ⟨henv, ⟨by rw [hc], ?_⟩, hbits, hin.setW _⟩
  have hposs := nposs_le m
  rw [Fin.val_ofNat, Nat.mod_eq_of_lt (by omega)]
  exact hlt

/-! ## The frame's bits -/

theorem execBsWinit_carries {l : List WorkReg} : Carries (Live .enc m b l) (Live .enc m b l) execBsWinit :=
  fun _ w h => ⟨w, rfl, h.1.setE rfl, h.2⟩

theorem frameFields_congr {w v : WorkRegs} (henv : w.env = v.env) (hctl : w.catctl = v.catctl)
    (hbits : AgreeUpTo m.nreg w.rbits v.rbits) : frameFields w m = frameFields v m := by
  rw [frameFields, frameFields, henv, hctl]
  congr 1
  exact List.flatMap_congr fun r hr => hbits r (List.mem_range.mp hr)

theorem execPack_carries :
    Carries (Live .enc m b [.env, .catctl, .rbits]) (Live .enc m b []) execPack := by
  intro s w h
  simp only [live_cons, live_nil, WorkReg.Agrees] at h
  obtain ⟨henv, ⟨hctl, -⟩, hbits, hin⟩ := h
  have hfields := frameFields_congr henv hctl hbits
  have hroom (k : Nat) : roomFor (s.setW w) k = roomFor s k := rfl
  have hbpf : encBpf (s.setW w) = encBpf s := rfl
  simp only [execPack, hroom, hbpf, State.setW_w, State.setW_e, State.setW_bs, hin.enc_mode, hfields]
  refine .ite (fun _ => ⟨_, rfl, ?_⟩) fun _ => rfl
  rw [live_nil]
  exact ((hin.setW _).setE (by rfl)).setBs _

theorem execBsFlush_carries : Carries (Live .enc m b []) (Live .enc m b []) execBsFlush := by
  intro s w h
  rw [live_nil] at h
  have hroom (k : Nat) : roomFor (s.setW w) k = roomFor s k := rfl
  simp only [execBsFlush, hroom, State.setW_e, State.setW_bs]
  refine .ite (fun _ => ⟨w, rfl, live_nil.mpr ?_⟩) fun _ => rfl
  exact (h.setE (e := { s.e with bw := (flushBits s.e.bw s.bs).1 }) rfl).setBs _

/-- An encoded frame reads no old frame working register (R371). -/
theorem encodeFrame_carries : Carries (Live .enc m b []) (Live .enc m b []) encodeFrame :=
  .cons (.uop _ execLoadPcm_carries) <| .cons (.uop _ execWinAna_carries) <|
  .cons (.uop _ execHeadroom_carries) <| .cons (.uop _ execDct4Fwd_carries) <|
  .cons (.uop _ execPwrEst_carries) <| .cons (.uop _ execPwrAdj_carries) <|
  .cons (.uop _ execPwrEnc_carries) <| .cons encAvail_carries <|
  .cons (.mono_left (fun _ _ h => h.mono (by simp))
    (.uop _ (execCategorize_carries (l := [.avail, .magsh, .coef, .env]) (by simp) (by simp)))) <|
  .cons (.mono_left (fun _ _ h => h.mono (by simp)) (.uop _ execRateAdj_carries)) <|
  .cons (.uop _ execBsWinit_carries) <| .cons (.uop _ execPack_carries) <|
  .cons (.uop _ execBsFlush_carries) .nil

end

end Sys2Proof.Machine
end

section
/-! PROOF. A decoded and a filled-in frame in two runs (47_frame_commands.md R376, R383), and the commands'
non-interference. -/

namespace Sys2Proof.Machine

theorem readBs_setW (s : State) (w : WorkRegs) : readBs (s.setW w) = readBs s := rfl

theorem AgreeUpTo.vset_succ {α : Type} [Inhabited α] {k n : Nat} {v u : Vector α k} (h : AgreeUpTo n v u)
    (x : α) : AgreeUpTo (n + 1) (Machine.vset v n x) (Machine.vset u n x) := by
  intro i hi
  by_cases hn : i = n ∧ i < k
  · rw [vget_vset, vget_vset, if_pos hn, if_pos hn]
  · rw [vget_vset, vget_vset, if_neg hn, if_neg hn]
    by_cases hin : i < n
    · exact h i hin
    · rw [vget_of_ge _ (by omega), vget_of_ge _ (by omega)]

/-! ## The frame start -/

section
variable {m : Mode} {b : Backend} {s : State}

theorem zeroCoef_agrees (hin : InMode .dec m b s) (w : WorkRegs) :
    (zeroCoef s).AgreeUpTo b m.blk (zeroCoef (s.setW w)) := by
  simp only [zeroCoef, State.setW_build, State.setW_d, State.setW_w, hin.backend, hin.dec_mode]
  exact SigReg.agreeUpTo_put (fun _ => agreeUpTo_vfill (blk_le m) _ _ fun _ _ => rfl)
    fun _ => agreeUpTo_vfill (blk_le m) _ _ fun _ _ => rfl

theorem decodeFrameStart_carries :
    Carries (Live .dec m b []) (Live .dec m b [.ferr, .underrun, .coef, .randsnap])
      (act decodeFrameStart) := by
  intro s w hin
  rw [live_nil] at hin
  have hcoef := zeroCoef_agrees hin w
  refine ⟨_, rfl, ?_⟩
  simp only [live_cons, live_nil, WorkReg.Agrees, decodeFrameStart_w, State.setW_w, State.setW_d, true_and]
  exact ⟨hcoef, hin.setW _⟩

theorem fillFrameStart_carries :
    Carries (Live .dec m b []) (Live .dec m b [.ferr, .coef, .randsnap, .magsh]) (act fillFrameStart) := by
  intro s w hin
  rw [live_nil] at hin
  have hcoef := zeroCoef_agrees hin w
  refine ⟨_, rfl, ?_⟩
  simp only [live_cons, live_nil, WorkReg.Agrees, fillFrameStart_w, State.setW_w, State.setW_d, true_and]
  exact ⟨hcoef, hin.setW _⟩

theorem execBsRinit_carries {l : List WorkReg} : Carries (Live .dec m b l) (Live .dec m b l) execBsRinit :=
  fun _ w h => ⟨w, rfl, h.1.setD rfl, h.2⟩

end

/-! ## The header -/

/-- Two outcomes of the envelope loop: where the bits lasted, the first `n` indices agree. -/
def DeltasAgree (n : Nat) :
    Except Fault (Bool × Vector I16 28 × BitReader) →
      Except Fault (Bool × Vector I16 28 × BitReader) → Prop
  | .error f, .error g => f = g
  | .ok (ok, abs, br), .ok (ok', abs', br') => ok = ok' ∧ br = br' ∧ (ok = true → AgreeUpTo n abs abs')
  | _, _ => False

/-- An index is the one before it plus a delta (R283), so agreement goes on from region to region. -/
theorem decodeDeltas_agree (rd : Nat → Except Fault Byte) (rom : Rom) (k r : Nat) {abs abs' : Vector I16 28}
    (hr : 0 < r) (h : AgreeUpTo r abs abs') (br : BitReader) :
    DeltasAgree (r + k) (decodeDeltas rd rom k r abs br) (decodeDeltas rd rom k r abs' br) := by
  induction k generalizing r abs abs' br with
  | zero => exact ⟨rfl, rfl, fun _ => h⟩
  | succ k ih =>
    simp only [decodeDeltas]
    split
    · rfl
    · exact ⟨rfl, rfl, nofun⟩
    · rw [← h (r - 1) (by omega), show r + (k + 1) = r + 1 + k by omega]
      exact ih (r + 1) (by omega) (h.vset_succ _) _

/-- The header's registers are written and the rest of `W` is kept; the flags agree, and so do the fields
if the header was whole. -/
def HeaderAgrees (m : Mode) (w v : WorkRegs) :
    Except Fault (WorkRegs × BitReader) → Except Fault (WorkRegs × BitReader) → Prop
  | .error f, .error g => f = g
  | .ok (w', br), .ok (v', br') => br = br' ∧ ∃ abs abs' cc cc' ferr,
      w' = { w with abs := abs, catctl := cc, ferr := ferr } ∧
      v' = { v with abs := abs', catctl := cc', ferr := ferr } ∧
      (ferr &&& ferrOverrun = 0#4 → AgreeUpTo m.nreg abs abs' ∧ cc = cc' ∧ cc.val < m.nposs)
  | _, _ => False

theorem overrun_set (ferr : BitVec 4) : ferrSetIf true ferrOverrun ferr &&& ferrOverrun ≠ 0#4 := by
  revert ferr
  decide

theorem headerExhausted_agrees {m : Mode} {w v : WorkRegs} (h : w.ferr = v.ferr) (abs abs' : Vector I16 28)
    (br : BitReader) :
    HeaderAgrees m w v (.ok (headerExhausted w abs, br)) (.ok (headerExhausted v abs', br)) :=
  ⟨rfl, abs, abs', w.catctl, v.catctl, ferrSetIf true ferrOverrun w.ferr, rfl, by
    rw [h]; rfl, fun h0 => absurd h0 (overrun_set _)⟩

theorem length_of_getBits {rd : Nat → Except Fault Byte} {n : Nat} {br br' : BitReader} {bits : List Bool}
    (h : getBits rd n br = .ok (some bits, br')) : bits.length = n := by
  induction n generalizing br bits br' with
  | zero => cases h; rfl
  | succ n ih =>
    simp only [getBits] at h
    split at h
    · cases h
    · cases h
    · split at h
      · cases h
      · cases h
      · next hbits => cases h; rw [List.length_cons, ih hbits]

theorem foldl_bits_lt (bits : List Bool) (a : Nat) :
    bits.foldl (fun a b => 2 * a + b.toNat) a < (a + 1) * 2 ^ bits.length := by
  induction bits generalizing a with
  | nil => simp
  | cons x xs ih =>
    have hx : x.toNat ≤ 1 := Bool.toNat_le x
    calc _ < (2 * a + x.toNat + 1) * 2 ^ xs.length := ih _
      _ ≤ (2 * (a + 1)) * 2 ^ xs.length := Nat.mul_le_mul_right _ (by omega)
      _ = (a + 1) * 2 ^ (x :: xs).length := by rw [List.length_cons, Nat.pow_succ]; ring

theorem natOfBits_lt (bits : List Bool) : natOfBits bits < 2 ^ bits.length := by
  have h := foldl_bits_lt bits 0
  rwa [Nat.zero_add, Nat.one_mul] at h

theorem readHeader_agrees (rd : Nat → Except Fault Byte) (rom : Rom) (m : Mode) {w v : WorkRegs}
    (h : w.ferr = v.ferr) (br : BitReader) :
    HeaderAgrees m w v (readHeader rd rom m w br) (readHeader rd rom m v br) := by
  simp only [readHeader]
  split
  · rfl
  · exact headerExhausted_agrees h _ _ _
  · next p0 br1 _ =>
    have h0 : AgreeUpTo 0 w.abs v.abs := nofun
    have hd := decodeDeltas_agree rd rom (m.nreg - 1) 1 (by omega)
      (h0.vset_succ (toI16 (natOfBits p0 - esfAdj))) br1
    rw [show 1 + (m.nreg - 1) = m.nreg by have := nreg_pos m; omega] at hd
    revert hd
    generalize decodeDeltas rd rom (m.nreg - 1) 1 (vset w.abs 0 (toI16 (natOfBits p0 - esfAdj))) br1 = x
    generalize decodeDeltas rd rom (m.nreg - 1) 1 (vset v.abs 0 (toI16 (natOfBits p0 - esfAdj))) br1 = y
    intro hd
    match x, y, hd with
    | .error f, .error g, hd => exact hd
    | .ok (false, abs, br2), .ok (_, abs', _), ⟨rfl, rfl, _⟩ => exact headerExhausted_agrees h _ _ _
    | .ok (true, abs, br2), .ok (_, abs', _), ⟨rfl, rfl, habs⟩ =>
      simp only
      split
      · rfl
      · exact headerExhausted_agrees h _ _ _
      · next cc br3 hcc =>
        refine ⟨rfl, abs, abs', Fin.ofNat 32 (natOfBits cc), _, w.ferr, rfl, by rw [h], fun _ =>
          ⟨habs rfl, rfl, ?_⟩⟩
        have hlt := natOfBits_lt cc
        rw [length_of_getBits hcc] at hlt
        exact (Nat.mod_le _ _).trans_lt hlt

section
variable {m : Mode} {b : Backend}

theorem execPwrDec_carries :
    Carries (Live .dec m b [.ferr, .underrun, .coef, .randsnap])
      (Live .dec m b [.header, .ferr, .underrun, .coef, .randsnap]) execPwrDec := by
  intro s w h
  simp only [live_cons, live_nil, WorkReg.Agrees] at h
  obtain ⟨hferr, hunder, hcoef, hsnap, hin⟩ := h
  have hagree := readHeader_agrees (readBs s) s.build.rom m hferr s.d.br
  simp only [execPwrDec, readBs_setW, State.setW_build, State.setW_d, State.setW_w, hin.dec_mode]
  revert hagree
  generalize readHeader (readBs s) s.build.rom m s.w s.d.br = x
  generalize readHeader (readBs s) s.build.rom m w s.d.br = y
  intro hagree
  match x, y, hagree with
  | .error f, .error g, hagree => exact hagree
  | .ok (_, br), .ok (_, _), ⟨rfl, abs, abs', cc, cc', ferr, rfl, rfl, hheader⟩ =>
    refine ⟨_, rfl, ?_⟩
    simp only [live_cons, live_nil, WorkReg.Agrees, State.setD_w, State.setW_w, true_and]
    exact ⟨hheader, hunder, hcoef, hsnap, (hin.setW _).setD hin.dec_mode.symm⟩

/-! ## The body of a decoded frame -/

theorem decoderShift_congr (sd : Nat → I16) {abs abs' : Nat → I16} {n : Nat}
    (h : ∀ r < n, abs r = abs' r) : decoderShift sd abs n = decoderShift sd abs' n := by
  have htemp : (List.range n).foldl (fun t r => add16 t (sd (powerRow (abs r) 0))) 0#16 =
      (List.range n).foldl (fun t r => add16 t (sd (powerRow (abs' r) 0))) 0#16 :=
    List.foldl_ext _ _ _ fun _ r hr => by rw [h r (List.mem_range.mp hr)]
  have hmax : (List.range n).foldl (fun m r => max m (powerRow (abs r) 0)) 0 =
      (List.range n).foldl (fun m r => max m (powerRow (abs' r) 0)) 0 :=
    List.foldl_ext _ _ _ fun _ r hr => by rw [h r (List.mem_range.mp hr)]
  simp only [decoderShift, htemp, hmax]

theorem execSdShift_carries :
    Carries (Live .dec m b [.abs, .catctl, .ferr, .underrun, .coef, .randsnap])
      (Live .dec m b [.magsh, .sd, .abs, .catctl, .ferr, .underrun, .coef, .randsnap]) execSdShift := by
  intro s w h
  simp only [live_cons, live_nil, WorkReg.Agrees] at h
  obtain ⟨habs, hctl, hferr, hunder, hcoef, hsnap, hin⟩ := h
  simp only [execSdShift, State.setW_build, State.setW_d, State.setW_w, hin.dec_mode, hin.backend,
    decoderShift_congr _ habs]
  refine .work ?_
  simp only [live_cons, live_nil, WorkReg.Agrees, State.setW_w, true_and]
  exact ⟨SigReg.agreeUpTo_put
    (fun _ => agreeUpTo_vfill (nreg_le m) _ _ fun r hr => by rw [habs r hr])
    (fun _ => agreeUpTo_vfill (nreg_le m) _ _ fun r hr => by rw [habs r hr]),
    habs, hctl, hferr, hunder, hcoef, hsnap, hin.setW _⟩

theorem decAvail_carries :
    Carries (Live .dec m b [.magsh, .sd, .abs, .catctl, .ferr, .underrun, .coef, .randsnap])
      (Live .dec m b [.avail, .magsh, .sd, .abs, .catctl, .ferr, .underrun, .coef, .randsnap])
      (act decAvail) := by
  intro s w h
  simp only [live_cons, live_nil, WorkReg.Agrees] at h
  obtain ⟨hmag, hsd, habs, hctl, hferr, hunder, hcoef, hsnap, hin⟩ := h
  refine ⟨_, rfl, ?_⟩
  simp only [live_cons, live_nil, WorkReg.Agrees, decAvail_w, State.setW_w, State.setW_d, true_and]
  exact ⟨hmag, hsd, habs, hctl, hferr, hunder, hcoef, hsnap, hin.setW _⟩

/-- What the two runs agree on in the region loop of R376 step 7. -/
def regionRegs : List WorkReg := [.cat, .abs, .magsh, .sd, .catctl, .ferr, .underrun, .coef, .randsnap]

theorem execCatReplay_carries :
    Carries (Live .dec m b [.cat0, .bal, .abs, .avail, .magsh, .sd, .catctl, .ferr, .underrun, .coef,
      .randsnap]) (Live .dec m b regionRegs) execCatReplay := by
  intro s w h
  simp only [live_cons, live_nil, WorkReg.Agrees] at h
  obtain ⟨hcat0, ⟨hbal, -⟩, habs, -, hmag, hsd, ⟨hctl, hlt⟩, hferr, hunder, hcoef, hsnap, hin⟩ := h
  simp only [execCatReplay, State.setW_d, State.setW_w, hin.dec_mode]
  refine .work ?_
  simp only [regionRegs, live_cons, live_nil, WorkReg.Agrees, State.setW_w]
  refine ⟨agreeUpTo_vfill (nreg_le m) _ _ fun r hr => ?_, habs, hmag, hsd, ⟨hctl, hlt⟩, hferr, hunder,
    hcoef, hsnap, hin.setW _⟩
  rw [← hctl, catsOf_congr (by rw [hcat0 r hr]) fun i hi => by rw [hbal i (by omega)]]

end

/-! ## The region loop -/

theorem AgreeUpTo.storeFrom {α : Type} [Inhabited α] {n : Nat} {v u : Vector α 640} (h : AgreeUpTo n v u)
    (pos : Nat) (xs : List α) : AgreeUpTo n (storeFrom v pos xs) (storeFrom u pos xs) := by
  induction xs generalizing v u pos with
  | nil => exact h
  | cons x xs ih => exact ih (h.vset pos x) (pos + 1)

theorem AgreeUpTo.fillRun {α : Type} [Inhabited α] {n : Nat} {v u : Vector α 640} (h : AgreeUpTo n v u)
    (all : Bool) (isZero : α → Bool) (amp namp : α) (k p : Nat) (hp : p + k ≤ n) (g : BitVec 16) :
    AgreeUpTo n (fillRun all isZero amp namp k p g v) (fillRun all isZero amp namp k p g u) := by
  induction k generalizing v u p g with
  | zero => exact h
  | succ k ih =>
    simp only [Machine.fillRun, ← h p (by omega)]
    split
    · exact ih (h.vset _ _) _ (by omega) _
    · exact ih h _ (by omega) _

theorem AgreeUpTo.fillRegion {α : Type} [Inhabited α] {n : Nat} {v u : Vector α 640}
    (h : AgreeUpTo n v u) (all : Bool) (isZero : α → Bool) (amp namp : α) {r : Nat}
    (hr : 20 * (r + 1) ≤ n) (w0 w1 : BitVec 16) :
    AgreeUpTo n (fillRegion all isZero amp namp r w0 w1 v) (fillRegion all isZero amp namp r w0 w1 u) :=
  (h.fillRun _ _ _ _ _ _ (by omega) _).fillRun _ _ _ _ _ _ (by omega) _

/-- Two outcomes of the vector loop. -/
def VectorsAgree (b : Backend) (n : Nat) :
    Except Fault (Bool × SigReg 640 × BitReader) → Except Fault (Bool × SigReg 640 × BitReader) → Prop
  | .error f, .error g => f = g
  | .ok (ok, coef, br), .ok (ok', coef', br') => ok = ok' ∧ br = br' ∧ coef.AgreeUpTo b n coef'
  | _, _ => False

section
variable {bd : Build} {sd sd' : SigReg 28} {coef coef' : SigReg 640} {r n k : Nat}

theorem storeVector_agrees (hsd : sd.AgreeUpTo bd.backend k sd') (hr : r < k)
    (h : coef.AgreeUpTo bd.backend n coef') (c pos : Nat) (ks : List Nat) (signs : List Bool) :
    (storeVector bd sd r c pos ks signs coef).AgreeUpTo bd.backend n
      (storeVector bd sd' r c pos ks signs coef') := by
  refine SigReg.agreeUpTo_put (fun hb => ?_) fun hb => ?_
  · rw [hsd.1 hb r hr]
    exact (h.1 hb).storeFrom _ _
  · rw [hsd.2 hb r hr]
    exact (h.2 hb).storeFrom _ _

theorem decodeVectors_agree (rd : Nat → Except Fault Byte) (hsd : sd.AgreeUpTo bd.backend k sd')
    (hr : r < k) (c j pos : Nat) (h : coef.AgreeUpTo bd.backend n coef') (br : BitReader) :
    VectorsAgree bd.backend n (decodeVectors rd bd sd r c j pos coef br)
      (decodeVectors rd bd sd' r c j pos coef' br) := by
  induction j generalizing pos coef coef' br with
  | zero => exact ⟨rfl, rfl, h⟩
  | succ j ih =>
    simp only [decodeVectors]
    split
    · rfl
    · exact ⟨rfl, rfl, h⟩
    · split
      · exact ⟨rfl, rfl, h⟩
      · split
        · rfl
        · exact ⟨rfl, rfl, h⟩
        · exact ih _ (storeVector_agrees hsd hr h _ _ _ _) _

theorem noiseCoef_agrees (hsd : sd.AgreeUpTo bd.backend k sd') (hr : r < k)
    (h : coef.AgreeUpTo bd.backend n coef') (hn : 20 * (r + 1) ≤ n) (c : Nat) (w0 w1 : BitVec 16) :
    (noiseCoef bd sd r c w0 w1 coef).AgreeUpTo bd.backend n (noiseCoef bd sd' r c w0 w1 coef') := by
  refine SigReg.agreeUpTo_put (fun hb => ?_) fun hb => ?_
  · rw [hsd.1 hb r hr]
    exact (h.1 hb).fillRegion _ _ _ _ hn _ _
  · rw [hsd.2 hb r hr]
    exact (h.2 hb).fillRegion _ _ _ _ hn _ _

end

section
variable {m : Mode} {b : Backend}

/-- The agreement in the region loop, at a region of the mode. -/
def RegionLive (m : Mode) (b : Backend) (s : State) (w : WorkRegs) : Prop :=
  Live .dec m b regionRegs s w ∧ s.seq.region.val < m.nreg

theorem execVqDec_carries : Carries (RegionLive m b) (RegionLive m b) execVqDec := by
  intro s w h
  obtain ⟨hlive, hr⟩ := h
  have hkeep := hlive
  simp only [regionRegs, live_cons, live_nil, WorkReg.Agrees] at hlive
  obtain ⟨hcat, habs, hmag, hsd, hctl, hferr, hunder, hcoef, hsnap, hin⟩ := hlive
  obtain rfl := hin.backend
  have hagree := decodeVectors_agree (readBs s) hsd hr (vget s.w.cat s.seq.region.val).val
    (vget s.build.rom.nvec (vget s.w.cat s.seq.region.val).val) (20 * s.seq.region.val) hcoef s.d.br
  simp only [execVqDec, readBs_setW, State.setW_build, State.setW_d, State.setW_seq, State.setW_w,
    hin.dec_mode, ← hcat _ hr]
  refine .ite (fun _ => ⟨w, rfl, hkeep, hr⟩) fun _ => ?_
  revert hagree
  generalize decodeVectors _ _ s.w.sd _ _ _ _ _ _ = x
  generalize decodeVectors _ _ w.sd _ _ _ _ _ _ = y
  intro hagree
  match x, y, hagree with
  | .error f, .error g, hagree => exact hagree
  | .ok (true, coef, br), .ok (_, coef', _), ⟨rfl, rfl, hcoef'⟩ =>
    refine ⟨_, rfl, ?_, hr⟩
    simp only [regionRegs, live_cons, live_nil, WorkReg.Agrees, State.setD_w, State.setW_w]
    exact ⟨hcat, habs, hmag, hsd, hctl, hferr, hunder, hcoef', hsnap,
      (hin.setW _).setD hin.dec_mode.symm⟩
  | .ok (false, coef, br), .ok (_, coef', _), ⟨rfl, rfl, hcoef'⟩ =>
    refine ⟨_, rfl, ?_, hr⟩
    simp only [regionRegs, live_cons, live_nil, WorkReg.Agrees, State.setD_w, State.setW_w, underrunRegs,
      true_and]
    refine ⟨fun i hi => ?_, habs, hmag, hsd, hctl, hferr, hcoef', hsnap,
      (hin.setW _).setD hin.dec_mode.symm⟩
    rw [vget_vfillFrom, vget_vfillFrom, hcat i hi]

theorem execNoiseFill_carries : Carries (RegionLive m b) (RegionLive m b) execNoiseFill := by
  intro s w h
  obtain ⟨hlive, hr⟩ := h
  have hkeep := hlive
  simp only [regionRegs, live_cons, live_nil, WorkReg.Agrees] at hlive
  obtain ⟨hcat, habs, hmag, hsd, hctl, hferr, hunder, hcoef, hsnap, hin⟩ := hlive
  obtain rfl := hin.backend
  have hblk := nreg_mul_le_blk m
  have hnoise := noiseCoef_agrees hsd hr hcoef (by omega)
  simp only [execNoiseFill, State.setW_build, State.setW_d, State.setW_seq, State.setW_w, ← hcat _ hr]
  refine .ite (fun _ => ⟨w, rfl, hkeep, hr⟩) fun _ => ⟨_, rfl, ?_, hr⟩
  simp only [regionRegs, live_cons, live_nil, WorkReg.Agrees, State.setD_w, State.setW_w]
  exact ⟨hcat, habs, hmag, hsd, hctl, hferr, hunder, hnoise _ _ _, hsnap, (hin.setW _).setD rfl⟩

theorem decodeRegions_carries (k r : Nat) (hk : r + k ≤ m.nreg) :
    Carries (Live .dec m b regionRegs) (Live .dec m b regionRegs) (decodeRegions k r) := by
  induction k generalizing r with
  | zero => exact fun _ w h => ⟨w, rfl, h⟩
  | succ k ih =>
    intro s w h
    have hreg := nreg_le m
    have hstart : RegionLive m b ((s.setRegion r).setPhase (phaseOf .vqDec)) w := by
      refine ⟨⟨(h.1.setSeq rfl).setSeq rfl, h.2⟩, ?_⟩
      exact (Nat.mod_le _ _).trans_lt (by omega)
    have hnoise : Carries (RegionLive m b) (RegionLive m b) (uop .noiseFill execNoiseFill) :=
      fun t v ht => execNoiseFill_carries _ v ⟨⟨ht.1.1.setSeq rfl, ht.1.2⟩, ht.2⟩
    exact (execVqDec_carries _ w hstart).thenDo fun t v ht =>
      (hnoise t v ht).thenDo fun u x hu => ih (r + 1) (by omega) u x hu.1

theorem checkedFlags_congr {w v : WorkRegs} (habs : AgreeUpTo m.nreg w.abs v.abs)
    (hctl : w.catctl = v.catctl) (hferr : w.ferr = v.ferr) (hunder : w.underrun = v.underrun) (rem : Int)
    (pad : Bool) : checkedFlags w rem pad m = checkedFlags v rem pad m := by
  have hany : (List.range m.nreg).any (fun r => outOfRange (vget w.abs r)) =
      (List.range m.nreg).any fun r => outOfRange (vget v.abs r) := by
    rw [Bool.eq_iff_iff, List.any_eq_true, List.any_eq_true]
    refine exists_congr fun r => and_congr_right fun hr => ?_
    rw [habs r (List.mem_range.mp hr)]
  simp only [checkedFlags, underran, hany, hctl, hferr, hunder]

theorem execFrameCheck_carries :
    Carries (Live .dec m b regionRegs) (Live .dec m b [.ferr, .coef, .randsnap, .magsh])
      execFrameCheck := by
  intro s w h
  simp only [regionRegs, live_cons, live_nil, WorkReg.Agrees] at h
  obtain ⟨-, habs, hmag, -, ⟨hctl, -⟩, hferr, hunder, hcoef, hsnap, hin⟩ := h
  simp only [execFrameCheck, readBs_setW, State.setW_d, State.setW_w, hin.dec_mode,
    checkedFlags_congr habs hctl hferr hunder]
  cases getBits (readBs s) s.d.br.rem.toNat s.d.br with
  | error f => rfl
  | ok p =>
    refine ⟨_, rfl, ?_⟩
    simp only [live_cons, live_nil, WorkReg.Agrees, State.setD_w, State.setW_w, true_and]
    exact ⟨hcoef, hsnap, hmag, (hin.setW _).setD hin.dec_mode.symm⟩

theorem decodeBody_carries :
    Carries (Live .dec m b [.abs, .catctl, .ferr, .underrun, .coef, .randsnap])
      (Live .dec m b [.ferr, .coef, .randsnap, .magsh]) decodeBody := by
  have hregions : Carries (Live .dec m b regionRegs) (Live .dec m b regionRegs)
      fun t => decodeRegions t.d.mode.nreg 0 t := by
    intro s w h
    simp only [State.setW_d, h.1.dec_mode]
    exact decodeRegions_carries m.nreg 0 (by omega) s w h
  exact .cons (.uop _ execSdShift_carries) <| .cons decAvail_carries <|
    .cons (.mono_left (fun _ _ h => h.mono (by simp))
      (.uop _ (execCategorize_carries (l := [.avail, .magsh, .sd, .catctl, .ferr, .underrun, .coef,
        .randsnap]) (by simp) (by simp)))) <|
    .cons (.uop _ execCatReplay_carries) <| .cons hregions <|
    .cons (.uop _ execFrameCheck_carries) .nil

/-! ## The frame's end -/

theorem nv_le_blk (m : Mode) : m.nv ≤ m.blk := nreg_mul_le_blk m

theorem concealCoef_agrees {α : Type} [Inhabited α] {v u : Vector α 640} (h : AgreeUpTo m.blk v u)
    (bad : Bool) (zero : α) (old : Vector α 640) :
    AgreeUpTo m.blk (concealCoef bad m zero v old) (concealCoef bad m zero u old) := by
  intro i hi
  simp only [concealCoef, vget_vgen, h i hi]

theorem concealOld_congr {α : Type} [Inhabited α] {v u : Vector α 640} (h : AgreeUpTo m.blk v u)
    (bad : Bool) (zero : α) (old : Vector α 640) :
    concealOld bad m zero v old = concealOld bad m zero u old :=
  vfill_congr _ _ fun i hi => by rw [h i (hi.trans_le (nv_le_blk m))]

theorem execConceal_carries :
    Carries (Live .dec m b [.ferr, .coef, .randsnap, .goodMagsh]) (Live .dec m b [.ferr, .magsh, .coef])
      execConceal := by
  intro s w h
  simp only [live_cons, live_nil, WorkReg.Agrees] at h
  obtain ⟨hferr, hcoef, hsnap, hmag, hin⟩ := h
  have hold (bad : Bool) (z : FVal) :
      s.d.oldcoef.put b (concealOld bad m 0#16 s.w.coef.fx s.d.oldcoef.fx)
        (concealOld bad m z s.w.coef.fl s.d.oldcoef.fl) =
      s.d.oldcoef.put b (concealOld bad m 0#16 w.coef.fx s.d.oldcoef.fx)
        (concealOld bad m z w.coef.fl s.d.oldcoef.fl) :=
    SigReg.put_congr _ (fun hb => concealOld_congr (hcoef.1 hb) _ _ _)
      fun hb => concealOld_congr (hcoef.2 hb) _ _ _
  have hshift (x : BitVec 16) : (if decide (w.ferr ≠ 0#4) = true then x else s.w.magsh) =
      if decide (w.ferr ≠ 0#4) = true then x else w.magsh := by
    split
    next => rfl
    next h0 => exact hmag (by simpa [hferr] using h0)
  simp only [execConceal, enterConceal, State.setW_build, State.setW_d, State.setW_w, hin.dec_mode,
    hin.backend, hferr, hsnap, hold, hshift]
  refine ⟨_, rfl, ?_⟩
  simp only [live_cons, live_nil, WorkReg.Agrees, State.setD_w, State.setW_w, true_and]
  exact ⟨rfl, SigReg.agreeUpTo_put (fun hb => concealCoef_agrees (hcoef.1 hb) _ _ _)
    (fun hb => concealCoef_agrees (hcoef.2 hb) _ _ _), (hin.setW _).setD hin.dec_mode.symm⟩

theorem execDct4Inv_carries :
    Carries (Live .dec m b [.ferr, .magsh, .coef]) (Live .dec m b [.ferr, .magsh, .news]) execDct4Inv := by
  intro s w h
  simp only [live_cons, live_nil, WorkReg.Agrees] at h
  obtain ⟨hferr, hmag, hcoef, hin⟩ := h
  obtain rfl := hin.dec_mode
  simp only [execDct4Inv, State.setW_build, State.setW_d, State.setW_w, hin.backend]
  refine .work ?_
  simp only [live_cons, live_nil, WorkReg.Agrees, State.setW_w]
  exact ⟨hferr, hmag, SigReg.agreeUpTo_put (fun hb => agreeUpTo_transformReg _ _ _ _ (hcoef.1 hb))
    (fun hb => agreeUpTo_transformReg _ _ _ _ (hcoef.2 hb)), hin.setW _⟩

theorem overlapFixed_congr {win : Nat → I16} {post : I16} {n : Nat} {v u old : Nat → I16}
    (h : ∀ i < n, v i = u i) {p : Nat} (hp : p < n) :
    overlapFixed win post n v old p = overlapFixed win post n u old p := by
  simp only [overlapFixed]
  split
  · rw [h _ (by omega)]
  · rw [h _ (by omega)]

theorem overlapFloat_congr {win : Nat → FVal} {n : Nat} {v u old : Nat → FVal}
    (h : ∀ i < n, v i = u i) {p : Nat} (hp : p < n) :
    overlapFloat win n v old p = overlapFloat win n u old p := by
  simp only [overlapFloat]
  split
  · rw [h _ (by omega)]
  · rw [h _ (by omega)]

theorem execWinSyn_carries :
    Carries (Live .dec m b [.ferr, .magsh, .news]) (Live .dec m b [.ferr, .out]) execWinSyn := by
  intro s w h
  simp only [live_cons, live_nil, WorkReg.Agrees] at h
  obtain ⟨hferr, hmag, hnews, hin⟩ := h
  have hunshift (hb : b = .fixed) :
      ∀ i < m.blk, unshifted w.magsh (vget s.w.news.fx) i = unshifted w.magsh (vget w.news.fx) i :=
    fun i hi => by rw [unshifted, unshifted, hnews.1 hb i hi]
  have hkept : s.d.oldsamp.put b
      (vfill s.d.oldsamp.fx (m.blk / 2) fun k => unshifted w.magsh (vget s.w.news.fx) (m.blk / 2 + k))
      (vfill s.d.oldsamp.fl (m.blk / 2) fun k => vget s.w.news.fl (m.blk / 2 + k)) =
      s.d.oldsamp.put b
      (vfill s.d.oldsamp.fx (m.blk / 2) fun k => unshifted w.magsh (vget w.news.fx) (m.blk / 2 + k))
      (vfill s.d.oldsamp.fl (m.blk / 2) fun k => vget w.news.fl (m.blk / 2 + k)) :=
    SigReg.put_congr _ (fun hb => vfill_congr _ _ fun k hk => hunshift hb _ (by omega))
      fun hb => vfill_congr _ _ fun k hk => hnews.2 hb _ (by omega)
  simp only [execWinSyn, State.setW_build, State.setW_d, State.setW_w, hin.dec_mode, hin.backend, hmag,
    hkept]
  refine ⟨_, rfl, ?_⟩
  simp only [live_cons, live_nil, WorkReg.Agrees, State.setD_w, State.setW_w]
  exact ⟨hferr, SigReg.agreeUpTo_put
    (fun hb => agreeUpTo_vfill (blk_le m) _ _ fun p hp => overlapFixed_congr (hunshift hb) hp)
    (fun hb => agreeUpTo_vfill (blk_le m) _ _ fun p hp => overlapFloat_congr (hnews.2 hb) hp),
    (hin.setW _).setD hin.dec_mode.symm⟩

theorem outSamples_congr {s : State} {w : WorkRegs} (hin : InMode .dec m b s)
    (h : s.w.out.AgreeUpTo b m.blk w.out) : outSamples (s.setW w) m.blk = outSamples s m.blk := by
  simp only [outSamples, State.setW_build, State.setW_w, hin.backend]
  refine List.map_congr_left fun i hi => ?_
  have hi := List.mem_range.mp hi
  cases b with
  | fixed => exact (h.1 rfl i hi).symm
  | float => exact congrArg sampleOfFloat (h.2 rfl i hi).symm

theorem execStorePcm_carries :
    Carries (Live .dec m b [.ferr, .out]) (Live .dec m b [.ferr]) execStorePcm := by
  intro s w h
  simp only [live_cons, live_nil, WorkReg.Agrees] at h
  obtain ⟨hferr, hout, hin⟩ := h
  have hcap : pcmCap (s.setW w) = pcmCap s := rfl
  simp only [execStorePcm, hcap, State.setW_d, State.setW_seq, State.setW_pcm, hin.dec_mode,
    outSamples_congr hin hout]
  refine .ite (fun _ => ⟨w, rfl, ?_⟩) fun _ => rfl
  simp only [live_cons, live_nil, WorkReg.Agrees, State.setPcm_w]
  exact ⟨hferr, hin.setPcm _⟩

theorem frameEnd_carries : Carries (Live .dec m b [.ferr]) (Live .dec m b []) (act frameEnd) := by
  intro s w h
  simp only [live_cons, live_nil, WorkReg.Agrees] at h
  obtain ⟨hferr, hin⟩ := h
  refine ⟨w, ?_, live_nil.mpr (hin.setSeq rfl)⟩
  simp only [frameEnd, State.setW_w, State.setW_seq, hferr]
  rfl

theorem concealTail_carries :
    Carries (Live .dec m b [.ferr, .coef, .randsnap, .goodMagsh]) (Live .dec m b []) concealTail :=
  .cons (.uop _ execConceal_carries) <| .cons (.uop _ execDct4Inv_carries) <|
  .cons (.uop _ execWinSyn_carries) <| .cons (.uop _ execStorePcm_carries) <|
  .cons frameEnd_carries .nil

/-- A frame whose shift agrees, good or bad. -/
theorem Live.goodMagsh {s : State} {w : WorkRegs} (h : Live .dec m b [.ferr, .coef, .randsnap, .magsh] s w) :
    Live .dec m b [.ferr, .coef, .randsnap, .goodMagsh] s w := by
  simp only [live_cons, live_nil, WorkReg.Agrees] at h ⊢
  obtain ⟨hferr, hcoef, hsnap, hmag, hin⟩ := h
  exact ⟨hferr, hcoef, hsnap, fun _ => hmag, hin⟩

/-- After the header: a bad one makes a bad frame, whose shift is not read; a good one is decoded on. -/
theorem afterHeader_carries :
    Carries (Live .dec m b [.header, .ferr, .underrun, .coef, .randsnap])
      (Live .dec m b [.ferr, .coef, .randsnap, .goodMagsh])
      (fun s => if headerFailed s then .next s else decodeBody s) := by
  intro s w h
  simp only [live_cons, live_nil, WorkReg.Agrees] at h
  obtain ⟨hheader, hferr, hunder, hcoef, hsnap, hin⟩ := h
  have hfail : headerFailed (s.setW w) = headerFailed s := by
    rw [headerFailed, headerFailed, State.setW_w, hferr]
  simp only [hfail]
  refine .ite (fun hbad => ⟨w, rfl, ?_⟩) fun hgood => ?_
  · simp only [live_cons, live_nil, WorkReg.Agrees]
    refine ⟨hferr, hcoef, hsnap, fun h0 => ?_, hin⟩
    simp [headerFailed, h0] at hbad
  · obtain ⟨habs, hctl, hlt⟩ := hheader (by simpa [headerFailed] using hgood)
    refine (decodeBody_carries s w ?_).mono fun _ _ h => h.goodMagsh
    simp only [live_cons, live_nil, WorkReg.Agrees]
    exact ⟨habs, ⟨hctl, hlt⟩, hferr, hunder, hcoef, hsnap, hin⟩

/-- A decoded frame reads no old frame working register (R376). -/
theorem decodeFrame_carries : Carries (Live .dec m b []) (Live .dec m b []) decodeFrame :=
  .cons decodeFrameStart_carries <| .cons (.uop _ execBsRinit_carries) <|
  .cons (.uop _ execPwrDec_carries) <| .cons afterHeader_carries <| .cons concealTail_carries .nil

/-- A filled-in frame reads no old frame working register (R383). -/
theorem fillFrame_carries : Carries (Live .dec m b []) (Live .dec m b []) fillFrame :=
  .cons fillFrameStart_carries <| .cons (.mono_left (fun _ _ h => h.goodMagsh) concealTail_carries) .nil

end

/-! ## Commands -/

theorem agreeButWork_of_twoRuns {Q : State → WorkRegs → Prop} {x y : Result} (h : TwoRuns Q x y) :
    agreeButWork x y := by
  rcases h.cases with ⟨s, w, rfl, rfl, -⟩ | ⟨f, rfl, rfl⟩ | ⟨r, rfl, rfl⟩ <;> rfl

/-- `CMD_CHECK` reads no working register, so the two runs pass or fail it together. -/
theorem runCommand_agree {i : Instr} (hc : i.isCommand = true) {body : State → Result} (s : State)
    (w : WorkRegs)
    (hbody : ∀ n, i.wellFormed = true → agreeButWork (body (beginCommand (wordOf i) n s))
      (body ((beginCommand (wordOf i) n s).setW w))) :
    agreeButWork (runCommand (wordOf i) body s) (runCommand (wordOf i) body (s.setW w)) := by
  have hcheck : checkCommand (wordOf i) (s.setW w) = checkCommand (wordOf i) s := rfl
  cases he : checkCommand (wordOf i) s with
  | error err =>
    rw [runCommand_error he, runCommand_error (hcheck.trans he)]
    rfl
  | ok p =>
    obtain ⟨hd, -⟩ := checkCommand_ok he
    obtain ⟨rfl, hw⟩ := decodeCommand_wordOf_eq hc hd
    rw [runCommand_ok he, runCommand_ok (hcheck.trans he)]
    exact hbody p.2 hw

theorem inMode_beginCommand {i : Instr} {side : Side} {s : State} (hside : cmdSide (wordOf i) = side)
    (hrom : categoryWf s.build.rom) (n : Nat) :
    InMode side (runMode (beginCommand (wordOf i) n s)) s.build.backend (beginCommand (wordOf i) n s) :=
  ⟨hside, rfl, rfl, hrom⟩

/-- A loop of frames and the command's end, from any two contents of `W`. -/
theorem frames_agree {side : Side} {m : Mode} {b : Backend} {frame : State → Result} {fin : State → State}
    (hframe : Carries (Live side m b []) (Live side m b []) frame)
    (hfin : ∀ t v, fin (t.setW v) = (fin t).setW v) {s : State} (hin : InMode side m b s) (w : WorkRegs)
    (k : Nat) :
    agreeButWork (thenDo (frameLoop frame k 0 s) (act fin))
      (thenDo (frameLoop frame k 0 (s.setW w)) (act fin)) := by
  have hloop := Carries.frameLoop (fun _ _ _ h => ⟨h.1.setSeq rfl, h.2⟩) hframe k 0 s w (live_nil.mpr hin)
  refine agreeButWork_of_twoRuns (Q := fun _ _ => True) (hloop.thenDo fun t v _ => ⟨v, ?_, trivial⟩)
  exact hfin t v

/-- Settles O11: the sequence of each frame fills every working register it reads (R36), so two runs agree
on what is read after each micro-operation, up to what leaves the frame. -/
theorem commandsDoNotReadOldWorkRegisters : Obligations.CommandsDoNotReadOldWorkRegisters := by
  intro i s w hc hrom
  cases i with
  | init side =>
    refine runCommand_agree (i := .init side) (body := fun u => .next (initBody side u)) rfl s w
      fun n _ => ?_
    cases side <;> rfl
  | setRate side =>
    refine runCommand_agree (i := .setRate side) (body := fun u => .next (setRateBody side u)) rfl s w
      fun n _ => ?_
    cases side <;> rfl
  | release side =>
    refine runCommand_agree (i := .release side) (body := fun u => .next (releaseBody side u)) rfl s w
      fun n _ => ?_
    cases side <;> rfl
  | encode side =>
    refine runCommand_agree (i := .encode side) rfl s w fun n hw => ?_
    obtain rfl : side = .enc := by simpa [Instr.wellFormed] using hw
    have hin := inMode_beginCommand (i := .encode .enc) (side := .enc) (by decide) hrom n
    exact frames_agree encodeFrame_carries (fun _ _ => rfl) hin w n
  | decode side =>
    refine runCommand_agree (i := .decode side) rfl s w fun n hw => ?_
    obtain rfl : side = .dec := by simpa [Instr.wellFormed] using hw
    have hin := inMode_beginCommand (i := .decode .dec) (side := .dec) (by decide) hrom n
    exact frames_agree decodeFrame_carries (fun _ _ => rfl) (hin.setSeq (by rfl)) w n
  | fillIn side =>
    refine runCommand_agree (i := .fillIn side) rfl s w fun n hw => ?_
    obtain rfl : side = .dec := by simpa [Instr.wellFormed] using hw
    have hin := inMode_beginCommand (i := .fillIn .dec) (side := .dec) (by decide) hrom n
    exact frames_agree fillFrame_carries (fun _ _ => rfl) (hin.setSeq (by rfl)) w n
  | _ => cases hc

end Sys2Proof.Machine
end

section
/-! PROOF. The bit packer appends to the bit stream: the whole bytes it writes and the bits still pending are
the bits pending before and the new ones (41_bitstream.md R181 to R184; 20_memory.md R74). -/

namespace Sys2Proof.Machine

/-! ## Streams and pending bits -/

theorem streamBits_congr {m m' : List Host.Cell} {a k : Nat}
    (h : ∀ i, a ≤ i → i < a + k → Memory.read (w := 8) m i = Memory.read (w := 8) m' i) :
    streamBits m (8 * a) (8 * k) = streamBits m' (8 * a) (8 * k) := by
  refine List.map_congr_left fun i hi => ?_
  have hi : i < 8 * k := List.mem_range.mp hi
  rw [streamBit, streamBit, h _ (by omega) (by omega)]

@[simp] theorem length_pendingBits (bw : BitWriter) : (pendingBits bw).length = bw.res :=
  length_bitsOf _ _

/-- The new bits join the accumulator (R182), which has room for 32. -/
theorem pendingBits_join {bw : BitWriter} {n : Nat} (h : bw.res + n ≤ 32) (value : Word) :
    pendingBits { bw with acc := (bw.acc <<< n) ||| BitVec.ofNat 32 (value.toNat % 2 ^ n),
                          res := bw.res + n } =
      pendingBits bw ++ bitsOf value.toNat n := by
  simp only [pendingBits]
  rw [bitsOf_add]
  congr 1
  · apply bitsOf_congr
    intro i hi
    simp only [Nat.testBit_div_two_pow, BitVec.testBit_toNat, BitVec.getLsbD_or,
      BitVec.getLsbD_shiftLeft, BitVec.getLsbD_ofNat, Nat.testBit_mod_two_pow]
    simp
    omega
  · apply bitsOf_congr
    intro i hi
    simp only [BitVec.testBit_toNat, BitVec.getLsbD_or, BitVec.getLsbD_shiftLeft, BitVec.getLsbD_ofNat,
      Nat.testBit_mod_two_pow]
    simp [hi]
    omega

/-- The oldest eight pending bits are the byte that R182 writes. -/
theorem pendingBits_oldest {bw : BitWriter} (h : 8 ≤ bw.res) :
    pendingBits bw = bitsOf ((bw.acc >>> (bw.res - 8)).setWidth 8).toNat 8 ++
      bitsOf bw.acc.toNat (bw.res - 8) := by
  have hsplit : bw.res = 8 + (bw.res - 8) := by omega
  have hbyte : bitsOf ((bw.acc >>> (bw.res - 8)).setWidth 8).toNat 8 =
      bitsOf (bw.acc.toNat / 2 ^ (bw.res - 8)) 8 := by
    rw [BitVec.toNat_setWidth, bitsOf_mod, BitVec.toNat_ushiftRight, Nat.shiftRight_eq_div_pow]
  rw [hbyte, ← bitsOf_add, ← hsplit, pendingBits]

/-! ## Appending -/

/-- The packer has appended `bits`: it wrote the whole bytes at the cursor, moved the cursor past them, kept
the remainder pending, and wrote nowhere else. -/
structure Appends (bw : BitWriter) (m : List Host.Cell) (bits : List Bool)
    (p : BitWriter × List Host.Cell) : Prop where
  ptr : p.1.ptr = bw.ptr + (bw.res + bits.length) / 8
  res : p.1.res = (bw.res + bits.length) % 8
  stream : streamBits p.2 (8 * bw.ptr) (8 * ((bw.res + bits.length) / 8)) ++ (pendingBits p.1).map some =
    (pendingBits bw ++ bits).map some
  other : ∀ a, a < bw.ptr ∨ bw.ptr + (bw.res + bits.length) / 8 ≤ a →
    Memory.read (w := 8) p.2 a = Memory.read (w := 8) m a

theorem Appends.nil {bw : BitWriter} (h : bw.res < 8) (m : List Host.Cell) : Appends bw m [] (bw, m) := by
  have hk : (bw.res + ([] : List Bool).length) / 8 = 0 := by simp; omega
  refine ⟨by rw [hk]; rfl, by simp; omega, ?_, fun _ _ => rfl⟩
  rw [hk]
  simp [streamBits]

/-- Two fields one after the other are one field of both. -/
theorem Appends.append {bw : BitWriter} {m : List Host.Cell} {xs ys : List Bool}
    {p q : BitWriter × List Host.Cell} (h : Appends bw m xs p) (h' : Appends p.1 p.2 ys q) :
    Appends bw m (xs ++ ys) q := by
  obtain ⟨hptr, hres, hstream, hother⟩ := h
  obtain ⟨hptr', hres', hstream', hother'⟩ := h'
  have hk : (bw.res + (xs ++ ys).length) / 8 =
      (bw.res + xs.length) / 8 + (p.1.res + ys.length) / 8 := by
    rw [List.length_append, hres]; omega
  have hfirst := streamBits_congr (a := bw.ptr) (k := (bw.res + xs.length) / 8)
    fun i _ hi => hother' i (.inl (by omega))
  refine ⟨by omega, ?_, ?_, fun a ha => ?_⟩
  · rw [hres', hres, List.length_append]; omega
  · rw [hk, Nat.mul_add, streamBits_add, hfirst, ← Nat.mul_add, ← hptr, List.append_assoc, hstream',
      List.map_append, ← List.append_assoc, hstream, ← List.map_append, List.append_assoc]
  · rw [hother' a (by omega), hother a (by omega)]

/-- The appended stream, whole bytes and remainder apart. -/
theorem Appends.split {bw : BitWriter} {m : List Host.Cell} {bits : List Bool}
    {p : BitWriter × List Host.Cell} (h : Appends bw m bits p) :
    streamBits p.2 (8 * bw.ptr) (8 * ((bw.res + bits.length) / 8)) =
        ((pendingBits bw ++ bits).take (8 * ((bw.res + bits.length) / 8))).map some ∧
      pendingBits p.1 = (pendingBits bw ++ bits).drop (8 * ((bw.res + bits.length) / 8)) := by
  have hstream := h.stream
  constructor
  · rw [List.map_take, ← hstream, List.take_left' (length_streamBits _ _ _)]
  · apply List.map_injective_iff.mpr (Option.some_injective Bool)
    rw [List.map_drop, ← hstream, List.drop_left' (length_streamBits _ _ _)]

/-- Every byte the packer wrote is there. -/
theorem Appends.written {bw : BitWriter} {m : List Host.Cell} {bits : List Bool}
    {p : BitWriter × List Host.Cell} (h : Appends bw m bits p) {a : Nat} (ha : bw.ptr ≤ a)
    (ha' : a < bw.ptr + (bw.res + bits.length) / 8) : (Memory.read (w := 8) p.2 a).isSome = true := by
  have hmem : streamBit p.2 (8 * a) ∈
      streamBits p.2 (8 * bw.ptr) (8 * ((bw.res + bits.length) / 8)) :=
    List.mem_map.mpr ⟨8 * a - 8 * bw.ptr, List.mem_range.mpr (by omega), by congr 1; omega⟩
  rw [h.split.1] at hmem
  obtain ⟨b, -, hb⟩ := List.mem_map.mp hmem
  have hdiv : 8 * a / 8 = a := by omega
  rw [streamBit, hdiv] at hb
  have := congrArg Option.isSome hb
  rw [Option.isSome_map] at this
  exact this.symm

/-! ## The packer's loops -/

theorem drain_stream (k : Nat) (bw : BitWriter) (m : List Host.Cell) (h : 8 * k ≤ bw.res) :
    streamBits (drain k bw m).2 (8 * bw.ptr) (8 * k) ++ (pendingBits (drain k bw m).1).map some =
        (pendingBits bw).map some ∧
      ∀ a, a < bw.ptr ∨ bw.ptr + k ≤ a →
        Memory.read (w := 8) (drain k bw m).2 a = Memory.read (w := 8) m a := by
  induction k generalizing bw m with
  | zero => exact ⟨rfl, fun _ _ => rfl⟩
  | succ k ih =>
    obtain ⟨hstream, hother⟩ := ih
      { bw with res := bw.res - 8, ptr := bw.ptr + 1 }
      (Memory.write (w := 8) m bw.ptr ((bw.acc >>> (bw.res - 8)).setWidth 8)) (by simp only; omega)
    dsimp only at hstream hother
    have hbyte := (hother bw.ptr (by omega)).trans
      ((Memory.read_write m bw.ptr _ bw.ptr).trans (if_pos rfl))
    have hsum : 8 * (k + 1) = 8 + 8 * k := by omega
    refine ⟨?_, fun a ha => ?_⟩
    · rw [drain, hsum, streamBits_add, streamBits_byte hbyte, List.append_assoc, ← Nat.mul_add_one,
        hstream, ← List.map_append, pendingBits_oldest (bw := bw) (by omega)]
      rfl
    · rw [drain, hother a (by omega), Memory.read_write, if_neg (by omega)]

theorem putNarrow_appends {bw : BitWriter} {n : Nat} (h : bw.res + n ≤ 32) (value : Word)
    (m : List Host.Cell) : Appends bw m (bitsOf value.toNat n) (putNarrow value n bw m) := by
  obtain ⟨hstream, hother⟩ := drain_stream ((bw.res + n) / 8)
    { bw with acc := (bw.acc <<< n) ||| BitVec.ofNat 32 (value.toNat % 2 ^ n), res := bw.res + n } m
    (by simp only; omega)
  rw [pendingBits_join h] at hstream
  refine ⟨?_, ?_, ?_, ?_⟩
  · rw [length_bitsOf]; exact putNarrow_ptr _ _ _ _
  · rw [length_bitsOf]; exact putNarrow_res _ _ _ _
  · rw [length_bitsOf]; exact hstream
  · rw [length_bitsOf]; exact hother

/-- `BS_PUT` for 1 to 32 bits (R182, R183). -/
theorem putField_appends {bw : BitWriter} {n : Nat} (hres : bw.res ≤ 7) (hn : n ≤ 32) (value : Word)
    (m : List Host.Cell) : Appends bw m (bitsOf value.toNat n) (putField value n bw m) := by
  rw [putField]
  split
  next hle => exact putNarrow_appends (by omega) value m
  next hlt =>
    have hbits : bitsOf value.toNat n = bitsOf (value >>> 8).toNat (n - 8) ++ bitsOf value.toNat 8 := by
      rw [BitVec.toNat_ushiftRight, Nat.shiftRight_eq_div_pow, ← bitsOf_add, Nat.sub_add_cancel (by omega)]
    have hres' := putNarrow_res (value >>> 8) (n - 8) bw m
    rw [hbits]
    exact (putNarrow_appends (by omega) _ m).append (putNarrow_appends (by omega) _ _)

/-- The bits of a string, one `BS_PUT` each (47_frame_commands.md R374). -/
theorem putBits_appends (bits : List Bool) {bw : BitWriter} (hres : bw.res ≤ 7) (m : List Host.Cell) :
    Appends bw m bits (putBits bits bw m) := by
  induction bits generalizing bw m with
  | nil => exact .nil (by omega) m
  | cons b bits ih =>
    have hone : bitsOf (if b then 1#32 else 0#32).toNat 1 = [b] := by cases b <;> rfl
    have hput := putField_appends hres (by omega : 1 ≤ 32) (if b then 1#32 else 0#32) m
    rw [hone] at hput
    have hres' := hput.res
    exact hput.append (ih (by omega) _)

/-! ## `BS_PUT` and `BS_FLUSH` -/

theorem exec_bsPut_ok {s : State} (h1 : 1 ≤ s.port.nbits) (h32 : s.port.nbits ≤ 32)
    (hroom : roomFor s (bytesOf s.e.bw s.port.nbits) = true) :
    exec .bsPut s = .next (s.afterPut (putField s.port.value s.port.nbits s.e.bw s.bs)) := by
  show execBsPut s = _
  rw [execBsPut, if_pos ⟨h1, h32⟩, if_pos hroom]

/-- Settles O27: the field of the port is appended to the stream. -/
theorem bsPutAppendsTheFieldToTheStream : Obligations.BsPutAppendsTheFieldToTheStream := by
  intro s n k q h1 h32 hres hroom
  have happ := putField_appends hres h32 s.port.value s.bs
  have hptr := happ.ptr
  have hbit := happ.res
  have hother := happ.other
  obtain ⟨hstream, hpend⟩ := happ.split
  rw [length_bitsOf] at hptr hbit hstream hpend hother
  exact ⟨_, _, exec_bsPut_ok h1 h32 ((roomFor_iff s _).mpr hroom), hptr, hbit, hpend, hstream, hother⟩

/-- With no pending bits `BS_FLUSH` changes nothing (R184). -/
theorem exec_bsFlush_nothing {s : State} (h : s.e.bw.res = 0) : exec .bsFlush s = .next s := by
  show execBsFlush s = _
  simp only [execBsFlush, flushBits, h]
  rfl

theorem exec_bsFlush_ok {s : State} (hres : 1 ≤ s.e.bw.res) (hroom : s.e.bw.ptr < bsCap s) :
    exec .bsFlush s = .next (s.afterPut ({ s.e.bw with res := 0, ptr := s.e.bw.ptr + 1 },
      Memory.write (w := 8) s.bs s.e.bw.ptr ((s.e.bw.acc <<< (8 - s.e.bw.res)).setWidth 8))) := by
  have hpos : s.e.bw.res > 0 := hres
  show execBsFlush s = _
  rw [execBsFlush, if_pos hpos, if_pos ((roomFor_iff s 1).mpr (.inr hroom)), flushBits, if_pos hpos]

theorem exec_bsFlush_fault {s : State} (hres : 1 ≤ s.e.bw.res) (hroom : bsCap s ≤ s.e.bw.ptr) :
    exec .bsFlush s = .fault (packerFault s) := by
  have hpos : s.e.bw.res > 0 := hres
  have hfull : ¬ roomFor s 1 = true := by rw [roomFor_iff]; omega
  show execBsFlush s = _
  rw [execBsFlush, if_pos hpos, if_neg hfull]

/-- The byte `BS_FLUSH` writes: the pending bits, left-justified, and zeros (R184). -/
theorem bitsOf_flushed {bw : BitWriter} (h : bw.res ≤ 7) :
    bitsOf ((bw.acc <<< (8 - bw.res)).setWidth 8).toNat 8 =
      pendingBits bw ++ List.replicate (8 - bw.res) false := by
  have hsplit : 8 = bw.res + (8 - bw.res) := by omega
  rw [BitVec.toNat_setWidth, bitsOf_mod]
  conv_lhs => rw [hsplit, bitsOf_add]
  congr 1
  · apply bitsOf_congr
    intro i hi
    simp only [Nat.testBit_div_two_pow, BitVec.testBit_toNat, BitVec.getLsbD_shiftLeft]
    simp
    omega
  · refine List.eq_replicate_iff.mpr ⟨length_bitsOf _ _, fun b hb => ?_⟩
    obtain ⟨i, hi, rfl⟩ := List.mem_map.mp hb
    have hi : i < 8 - bw.res := List.mem_range.mp hi
    simp only [BitVec.testBit_toNat, BitVec.getLsbD_shiftLeft]
    simp
    omega

/-- Settles O29: nothing, one byte, or the capacity's fault. -/
theorem bsFlushPadsTheLastByteWithZeros : Obligations.BsFlushPadsTheLastByteWithZeros := by
  refine fun s => ⟨exec_bsFlush_nothing, fun h1 h7 hroom => ?_, fun h1 hfull => ?_⟩
  · refine ⟨_, exec_bsFlush_ok h1 hroom, ?_, fun a ha => ?_⟩
    · rw [streamBits_byte ((Memory.read_write _ _ _ _).trans (if_pos rfl)), bitsOf_flushed h7]
    · rw [Memory.read_write, if_neg ha]
  · rw [exec_bsFlush_fault h1 hfull, packerFault, Nat.max_eq_left hfull]

end Sys2Proof.Machine
end

section
/-! PROOF. The samples `STORE_PCM` writes (47_frame_commands.md R379). -/

namespace Sys2Proof.Config

/-- The nearest integer, the even one at a tie, is the only one (42_transform.md R215, R379). -/
theorem nearestEven_unique {q : ℚ} {k : Int} (hk : |q - k| ≤ 1 / 2)
    (htie : |q - k| = 1 / 2 → k % 2 = 0) : nearestEven q = k := by
  obtain ⟨hn, hntie⟩ := nearestEven_spec q
  generalize nearestEven q = n at hn hntie
  have hnear (a b : Int) (ha : |q - a| ≤ 1 / 2) (hb : |q - b| ≤ 1 / 2) (hlt : a < b) :
      |q - a| = 1 / 2 ∧ |q - b| = 1 / 2 ∧ b = a + 1 := by
    obtain ⟨-, ha⟩ := abs_le.mp ha
    obtain ⟨hb, -⟩ := abs_le.mp hb
    have hle : (b : ℚ) ≤ a + 1 := by linarith
    have hge : (a : ℚ) + 1 ≤ b := by exact_mod_cast hlt
    have hqa : q - a = 1 / 2 := by linarith
    have hqb : q - b = -(1 / 2) := by linarith
    refine ⟨by rw [hqa]; norm_num, by rw [hqb]; norm_num, ?_⟩
    exact_mod_cast le_antisymm hle hge
  rcases lt_trichotomy n k with hlt | heq | hgt
  · obtain ⟨h1, h2, h3⟩ := hnear n k hn hk hlt
    have := hntie h1
    have := htie h2
    omega
  · exact heq
  · obtain ⟨h1, h2, h3⟩ := hnear k n hk hn hgt
    have := htie h1
    have := hntie h2
    omega

end Sys2Proof.Config

namespace Sys2Proof.Machine

theorem sampleOfFloat_infinity {v : FVal} {negative : Bool} (h : Config.fKind v = .infinity negative) :
    (sampleOfFloat v).toInt = if negative then -32768 else 32767 := by
  rw [sampleOfFloat, h]
  cases negative <;> rfl

theorem sampleOfFloat_finite {v : FVal} (h : ∀ negative, Config.fKind v ≠ .infinity negative) :
    (sampleOfFloat v).toInt = max (-32768) (min 32767 (Config.fRint v)) := by
  rw [sampleOfFloat]
  split
  next negative hk => exact absurd hk (h negative)
  next => exact toI16_sat16 _
  next => exact toI16_sat16 _

theorem sampleOfFloat_number {v : FVal} {q : ℚ} (h : Config.fKind v = .number q) {k : Int}
    (hk : |q - k| ≤ 1 / 2) (htie : |q - k| = 1 / 2 → k % 2 = 0) :
    (sampleOfFloat v).toInt = max (-32768) (min 32767 k) := by
  rw [sampleOfFloat_finite (by simp [h]), Config.fRint_number h, Config.nearestEven_unique hk htie]

theorem outSamples_fixed {s : State} (h : s.build.backend = .fixed) (n : Nat) :
    outSamples s n = (List.range n).map (vget s.w.out.fx) := by
  simp only [outSamples, h]

theorem outSamples_float {s : State} (h : s.build.backend = .float) (n : Nat) :
    outSamples s n = (List.range n).map fun i => sampleOfFloat (vget s.w.out.fl i) := by
  simp only [outSamples, h]

/-- `PCMBUF` after `STORE_PCM`. -/
def storedPcm (s : State) : Memory 16 :=
  Memory.writeList s.pcm (s.seq.frame * s.d.mode.blk) (outSamples s s.d.mode.blk)

theorem exec_storePcm_ok {s : State} (h : s.seq.frame * s.d.mode.blk + s.d.mode.blk ≤ pcmCap s) :
    exec .storePcm s = .next (s.setPcm (storedPcm s)) := by
  show execStorePcm s = _
  simp only [execStorePcm, if_pos h, storedPcm]

theorem exec_storePcm_fault {s : State} (h : pcmCap s < s.seq.frame * s.d.mode.blk + s.d.mode.blk) :
    exec .storePcm s = .fault (.pcmCapacity (max (s.seq.frame * s.d.mode.blk) (pcmCap s))) := by
  show execStorePcm s = _
  simp only [execStorePcm, if_neg (Nat.not_le.mpr h)]

theorem read_storedPcm_inside (s : State) {i : Nat} (hi : i < s.d.mode.blk) :
    Memory.read (storedPcm s) (s.seq.frame * s.d.mode.blk + i) =
      some ((outSamples s s.d.mode.blk).getD i 0#16) := by
  rw [storedPcm, Memory.read_writeList, length_outSamples, if_pos (by omega), Nat.add_sub_cancel_left]

theorem read_storedPcm_outside (s : State) {a : Nat} (ha : a < s.seq.frame * s.d.mode.blk ∨
    s.seq.frame * s.d.mode.blk + s.d.mode.blk ≤ a) :
    Memory.read (storedPcm s) a = Memory.read s.pcm a := by
  rw [storedPcm, Memory.read_writeList, length_outSamples, if_neg (by omega)]

/-- Settles O26: the samples of each backend, and the capacity's fault. -/
theorem storePcmWritesTheFramesSamples : Obligations.StorePcmWritesTheFramesSamples := by
  intro s n base
  refine ⟨exec_storePcm_fault, fun hcap => ⟨_, exec_storePcm_ok hcap, fun hb i hi => ?_,
    fun hb i hi => ⟨sampleOfFloat (vget s.w.out.fl i), ?_, sampleOfFloat_finite,
      fun q hq k => sampleOfFloat_number hq, fun negative => sampleOfFloat_infinity⟩,
    fun a => read_storedPcm_outside s⟩⟩
  · rw [read_storedPcm_inside s hi, outSamples_fixed hb, List.getD_eq_getElem _ _ (by simpa using hi)]
    simp
  · rw [read_storedPcm_inside s hi, outSamples_float hb, List.getD_eq_getElem _ _ (by simpa using hi)]
    simp

end Sys2Proof.Machine
end

section
/-! PROOF. `ENCODE` completes: from a state that meets a condition each part of its frame sequence answers a
next state that meets another one (47_frame_commands.md R370 to R372). -/

namespace Sys2Proof.Machine

/-! ## Meanings that complete -/

/-- From every state that meets `P` the meaning answers a next state, and that one meets `Q`. -/
def Completes (P : State → Prop) (m : State → Result) (Q : State → Prop) : Prop :=
  ∀ s, P s → ∃ t, m s = .next t ∧ Q t

section
variable {P Q R : State → Prop}

theorem Completes.thenDo {m k : State → Result} (h : Completes P m Q) (h' : Completes Q k R) :
    Completes P (fun s => thenDo (m s) k) R := by
  intro s hs
  obtain ⟨t, ht, hQ⟩ := h s hs
  obtain ⟨u, hu, hR⟩ := h' t hQ
  exact ⟨u, thenDo_eq_next.mpr ⟨t, ht, hu⟩, hR⟩

theorem Completes.nil : Completes P (runAll []) P := fun s hs => ⟨s, rfl, hs⟩

theorem Completes.cons {m : State → Result} {ms : List (State → Result)} (h : Completes P m Q)
    (h' : Completes Q (runAll ms) R) : Completes P (runAll (m :: ms)) R := h.thenDo h'

theorem Completes.act {f : State → State} (h : ∀ s, P s → Q (f s)) : Completes P (act f) Q :=
  fun s hs => ⟨f s, rfl, h s hs⟩

/-- A micro-operation in its turn, from a condition that does not speak of `SEQ.PHASE`. -/
theorem Completes.turn {i : Instr} (hp : ∀ s c, P s → P (s.setPhase c)) (h : Completes P (exec i) Q) :
    Completes P (turn i) Q := fun s hs => h _ (hp s _ hs)

/-- A meaning that answers and keeps a property where it answers. -/
theorem Completes.of_next {m : State → Result} (hc : ∀ s, P s → completes (m s))
    (h : ∀ s t, P s → m s = .next t → Q t) : Completes P m Q := by
  intro s hs
  obtain ⟨t, ht⟩ := hc s hs
  exact ⟨t, ht, h s t hs ht⟩

/-- The frame loop (R380): frame `f` leads from `A f` to `A (f + 1)`. -/
theorem Completes.frameLoop {A : Nat → State → Prop} {frame : State → Result} {n : Nat}
    (h : ∀ f < n, Completes (fun s => A f s ∧ s.seq.frame = f) frame (A (f + 1)))
    (hset : ∀ f s, A f s → A f (s.setFrame f)) (k f : Nat) (hk : f + k ≤ n) :
    Completes (A f) (frameLoop frame k f) (A (f + k)) := by
  induction k generalizing f with
  | zero => exact fun s hs => ⟨s, rfl, hs⟩
  | succ k ih =>
    have hrest := ih (f + 1) (by omega)
    rw [Nat.add_assoc, Nat.add_comm 1 k] at hrest
    intro s hs
    exact (h f (by omega)).thenDo hrest (s.setFrame f) ⟨hset f s hs, rfl⟩

end

/-- `CMD_CHECK` lets a command pass that has its context, legal operands and no more frames than the buffers
hold (R360). -/
theorem runCommand_pass {i : Instr} (hc : i.isCommand = true) (hw : i.wellFormed = true) {s : State}
    (hctx : ∀ side, needsContext i = some side → validOf s side = true) (hl : configLegal i s = true)
    (hn : nframesOf i s ≤ s.build.maxFrames) (body : State → Result) :
    runCommand (wordOf i) body s = body (beginCommand (wordOf i) (nframesOf i s) s) := by
  have hany : (needsContext i).any (fun side => !validOf s side) = false := by
    cases hside : needsContext i with
    | none => rfl
    | some side => simp [hctx side hside]
  refine runCommand_ok (i := i) ?_
  simp [checkCommand, decodeCommand_wordOf hc hw, hany, hl, Nat.not_lt.mpr hn]

/-! ## Sizes -/

/-- A legal rate makes a frame of whole bytes, at most 120 (00_scope.md R8, 20_memory.md R70). -/
theorem frameBytes_of_legalRate {r : Nat} (h : legalRate r = true) :
    bpf r = 8 * bypf r ∧ bypf r = r / 400 ∧ bypf r ≤ 120 := by
  simp only [legalRate, Bool.and_eq_true, decide_eq_true_eq, beq_iff_eq] at h
  obtain ⟨⟨-, hle⟩, hmod⟩ := h
  rw [bypf, bpf]
  omega

/-- A frame below the count ends where the next one starts, inside a buffer of `cap` units a frame. -/
theorem frame_end_le {f n k cap frames : Nat} (hf : f < n) (hk : k ≤ cap) (hn : n ≤ frames) :
    f * k + k ≤ n * k ∧ n * k ≤ cap * frames := by
  refine ⟨?_, ?_⟩
  · rw [← Nat.succ_mul]
    exact Nat.mul_le_mul_right k hf
  · rw [Nat.mul_comm cap]
    exact Nat.mul_le_mul hn hk

/-! ## A frame of `ENCODE` -/

/-- Before frame `f` of an `ENCODE` from `s₀`: the frames below `f` are written, the rest of `BSBUF` is as it
was. -/
structure EncodeAt (s₀ : State) (f : Nat) (s : State) : Prop where
  run : EncRun s₀ s
  nframes : s.seq.nframes = s₀.seq.nframes
  written : ∀ a < f * encBypf s₀, (Memory.read (w := 8) s.bs a).isSome = true
  kept : ∀ a, f * encBypf s₀ ≤ a → Memory.read (w := 8) s.bs a = Memory.read (w := 8) s₀.bs a

/-- What the frames of an `ENCODE` leave alone. -/
theorem EncRun.same {s t : State} (h : EncRun s t) :
    t.build = s.build ∧ t.pcm = s.pcm ∧ t.e.mode = s.e.mode ∧ t.e.rate = s.e.rate := by
  obtain ⟨_, _, _, _, _, rfl⟩ := h
  exact ⟨rfl, rfl, rfl, rfl⟩

section
variable {s₀ : State} {f : Nat}

theorem EncodeAt.setSeq {s : State} (h : EncodeAt s₀ f s) {q : SeqRegs}
    (hq : q.nframes = s.seq.nframes) : EncodeAt s₀ f (s.setSeq q) :=
  ⟨h.run.trans (.of_setSeq s q), hq.trans h.nframes, h.written, h.kept⟩

theorem EncodeAt.setW {s : State} (h : EncodeAt s₀ f s) (w : WorkRegs) : EncodeAt s₀ f (s.setW w) :=
  ⟨h.run.trans (EncWrites.of_setW s w).run, h.nframes, h.written, h.kept⟩

/-- The encoder's micro-operations leave `SEQ` (10_state.md R33). -/
theorem encoderUop_seq {i : Instr} (hi : i ∈ encoderUops) {s t : State} (h : exec i s = .next t) :
    t.seq = s.seq := by
  obtain ⟨_, _, _, _, rfl⟩ := encoderUop_writes hi h
  rfl

/-- A micro-operation that does not write `BSBUF` keeps what the earlier frames wrote. -/
theorem EncodeAt.uop {i : Instr} (hi : i ∈ encoderUops) (hn : i ∉ [.storePcm, .bsPut, .bsFlush, .pack])
    {s t : State} (h : EncodeAt s₀ f s) (hx : exec i s = .next t) : EncodeAt s₀ f t := by
  have hc : i.isCommand = false := by
    revert hi
    cases i <;> simp [encoderUops, Instr.isCommand]
  obtain ⟨-, hbs⟩ := uop_buffers hc hn hx
  exact ⟨h.run.trans (encoderUop_writes hi hx).run, by rw [encoderUop_seq hi hx, h.nframes],
    by rw [hbs]; exact h.written, by rw [hbs]; exact h.kept⟩

/-- During frame `f` the frame is the one in `SEQ.FRAME`. -/
def EncodeIn (s₀ : State) (f : Nat) (s : State) : Prop := EncodeAt s₀ f s ∧ s.seq.frame = f

theorem EncodeIn.setPhase {s : State} (h : EncodeIn s₀ f s) (c : Byte) : EncodeIn s₀ f (s.setPhase c) :=
  ⟨h.1.setSeq rfl, h.2⟩

theorem EncodeIn.turn {i : Instr} (hi : i ∈ encoderUops) (hn : i ∉ [.storePcm, .bsPut, .bsFlush, .pack])
    (hc : ∀ s, EncodeIn s₀ f s → completes (exec i s)) :
    Completes (EncodeIn s₀ f) (turn i) (EncodeIn s₀ f) :=
  .turn (fun _ c h => h.setPhase c) <| .of_next hc fun _ _ h hx =>
    ⟨h.1.uop hi hn hx, by rw [encoderUop_seq hi hx, h.2]⟩

/-- The micro-operations of `ENCODE` that touch registers only. -/
def encoderQuietUops : List Instr :=
  [.winAna, .headroom, .dct4Fwd, .pwrEst, .pwrAdj, .pwrEnc, .categorize, .rateAdj, .bsWinit]

theorem encoderQuietUops_encoder {i : Instr} (hi : i ∈ encoderQuietUops) :
    i ∈ encoderUops ∧ i ∉ [.storePcm, .bsPut, .bsFlush, .pack] := by
  revert hi
  cases i <;> simp [encoderQuietUops, encoderUops]

theorem encoderQuietUop_completes {i : Instr} (hi : i ∈ encoderQuietUops) (s : State) :
    completes (exec i s) := by
  cases i with
  | winAna | headroom | dct4Fwd | pwrEst | pwrAdj | pwrEnc | categorize | rateAdj | bsWinit =>
    exact ⟨_, rfl⟩
  | _ => simp [encoderQuietUops] at hi

theorem EncodeIn.turn_quiet {i : Instr} (hi : i ∈ encoderQuietUops) :
    Completes (EncodeIn s₀ f) (Machine.turn i) (EncodeIn s₀ f) :=
  EncodeIn.turn (encoderQuietUops_encoder hi).1 (encoderQuietUops_encoder hi).2 fun s _ =>
    encoderQuietUop_completes hi s

/-- The samples of frame `f` are loaded (R373). -/
theorem loadPcm_completes (hf : f < s₀.seq.nframes) (hn : s₀.seq.nframes ≤ s₀.build.maxFrames)
    (hready : samplesReady s₀ 0 (s₀.seq.nframes * s₀.e.mode.blk)) {s : State} (h : EncodeIn s₀ f s) :
    completes (exec .loadPcm s) := by
  obtain ⟨⟨hrun, -, -, -⟩, hframe⟩ := h
  obtain ⟨hbuild, hpcm, hmode, -⟩ := hrun.same
  obtain ⟨hlast, hcap⟩ := frame_end_le hf (blk_le s₀.e.mode) hn
  refine ⟨_, exec_loadPcm_ok (readPcmList_ok (fun i h1 h2 => ?_) ?_)⟩
  · rw [hframe, hmode] at h2
    rw [hpcm]
    exact hready i (Nat.zero_le i) (by omega)
  · rw [hframe, hmode, pcmCap, hbuild]
    omega

/-- After `BS_WINIT` the cursor stands at the frame's first byte (41_bitstream.md R185). -/
def EncodeCursor (s₀ : State) (f : Nat) (s : State) : Prop :=
  EncodeIn s₀ f s ∧ s.e.bw.res = 0 ∧ s.e.bw.ptr = f * encBypf s₀

theorem EncodeCursor.setPhase {s : State} (h : EncodeCursor s₀ f s) (c : Byte) :
    EncodeCursor s₀ f (s.setPhase c) := ⟨h.1.setPhase c, h.2⟩

theorem bsWinit_completes : Completes (EncodeIn s₀ f) (turn .bsWinit) (EncodeCursor s₀ f) := by
  refine .turn (fun _ c h => h.setPhase c) fun s h => ?_
  obtain ⟨hat, hframe⟩ := h
  obtain ⟨-, -, -, hrate⟩ := hat.run.same
  have hin := hat.uop (i := .bsWinit) (by simp [encoderUops]) (by simp) rfl
  exact ⟨_, rfl, ⟨hin, hframe⟩, rfl, by simp [encBypf, hframe, hrate]⟩

theorem length_fitFrame (bits : List Bool) (n : Nat) : (fitFrame bits n).length = n := by
  rw [fitFrame]
  split
  next hgt => rw [List.length_take, Nat.min_eq_left (Nat.le_of_lt hgt)]
  next hle => rw [List.length_append, List.length_replicate, Nat.add_sub_cancel' (Nat.not_lt.mp hle)]

/-- The payload of a frame, as long as the rate says (47_frame_commands.md R374). -/
def packedBits (s : State) : List Bool := fitFrame (frameFields s.w s.e.mode) (encBpf s)

theorem exec_pack_ok {s : State} (hroom : roomFor s (bytesOf s.e.bw (packedBits s).length) = true) :
    exec .pack s = .next ((s.setW { s.w with framebits := packedBits s }).afterPut
      (putBits (packedBits s) s.e.bw s.bs)) := by
  show execPack s = _
  simp only [execPack, packedBits] at hroom ⊢
  rw [if_pos hroom]

/-- The packer writes exactly the frame's bytes (R372, R374). -/
theorem pack_completes (hl : legalRate s₀.e.rate.toNat = true) (hf : f < s₀.seq.nframes)
    (hn : s₀.seq.nframes ≤ s₀.build.maxFrames) :
    Completes (EncodeCursor s₀ f) (turn .pack) fun s => EncodeAt s₀ (f + 1) s ∧ s.e.bw.res = 0 := by
  refine .turn (fun _ c h => h.setPhase c) ?_
  rintro s ⟨⟨hat, hframe⟩, hres, hptr⟩
  obtain ⟨hbuild, -, -, hrate⟩ := hat.run.same
  obtain ⟨hbits, -, hmax⟩ := frameBytes_of_legalRate hl
  obtain ⟨hlast, hcap⟩ := frame_end_le hf hmax hn
  have hlen : (packedBits s).length = 8 * encBypf s₀ := by
    rw [packedBits, length_fitFrame, encBpf, hrate, hbits, encBypf]
  have hcount : (s.e.bw.res + (packedBits s).length) / 8 = encBypf s₀ := by omega
  have hroom : roomFor s (bytesOf s.e.bw (packedBits s).length) = true := by
    rw [roomFor_iff, bytesOf, hcount, hptr, bsCap, hbuild]
    exact .inr (hlast.trans hcap)
  have happ := putBits_appends (packedBits s) (bw := s.e.bw) (by omega) s.bs
  have hres' : (putBits (packedBits s) s.e.bw s.bs).1.res = 0 := by
    rw [happ.res]; omega
  have hother := happ.other
  have hwritten := @happ.written
  rw [hcount, hptr] at hother hwritten
  refine ⟨_, exec_pack_ok hroom, ⟨?_, hat.nframes, fun a ha => ?_, fun a ha => ?_⟩, hres'⟩
  · exact hat.run.trans (EncWrites.run ⟨_, _, _, _, rfl⟩)
  · rw [Nat.succ_mul] at ha
    rcases Nat.lt_or_ge a (f * encBypf s₀) with hlt | hge
    · rw [State.afterPut_bs, hother a (.inl hlt)]
      exact hat.written a hlt
    · exact hwritten hge ha
  · rw [Nat.succ_mul] at ha
    rw [State.afterPut_bs, hother a (.inr ha)]
    exact hat.kept a (by omega)

theorem bsFlush_completes : Completes (fun s => EncodeAt s₀ (f + 1) s ∧ s.e.bw.res = 0) (turn .bsFlush)
    (EncodeAt s₀ (f + 1)) := by
  rintro s ⟨hat, hres⟩
  exact ⟨_, exec_bsFlush_nothing (s := s.setPhase _) hres, hat.setSeq rfl⟩

/-- A frame of `ENCODE` (R371) completes and writes its bytes. -/
theorem encodeFrame_completes (hl : legalRate s₀.e.rate.toNat = true) (hf : f < s₀.seq.nframes)
    (hn : s₀.seq.nframes ≤ s₀.build.maxFrames)
    (hready : samplesReady s₀ 0 (s₀.seq.nframes * s₀.e.mode.blk)) :
    Completes (EncodeIn s₀ f) encodeFrame (EncodeAt s₀ (f + 1)) := by
  have hquiet (i : Instr) (hi : i ∈ encoderQuietUops) :
      Completes (EncodeIn s₀ f) (turn i) (EncodeIn s₀ f) := EncodeIn.turn_quiet hi
  have hload : Completes (EncodeIn s₀ f) (turn .loadPcm) (EncodeIn s₀ f) :=
    EncodeIn.turn (by simp [encoderUops]) (by simp) fun s h => loadPcm_completes hf hn hready h
  have havail : Completes (EncodeIn s₀ f) (act encAvail) (EncodeIn s₀ f) :=
    .act fun s h => ⟨h.1.setW _, h.2⟩
  exact .cons hload <| .cons (hquiet .winAna (by simp [encoderQuietUops])) <|
    .cons (hquiet .headroom (by simp [encoderQuietUops])) <|
    .cons (hquiet .dct4Fwd (by simp [encoderQuietUops])) <|
    .cons (hquiet .pwrEst (by simp [encoderQuietUops])) <|
    .cons (hquiet .pwrAdj (by simp [encoderQuietUops])) <|
    .cons (hquiet .pwrEnc (by simp [encoderQuietUops])) <| .cons havail <|
    .cons (hquiet .categorize (by simp [encoderQuietUops])) <|
    .cons (hquiet .rateAdj (by simp [encoderQuietUops])) <| .cons bsWinit_completes <|
    .cons (pack_completes hl hf hn) <| .cons bsFlush_completes .nil

end

/-! ## The command -/

/-- The count of encoded bytes fits `RESULT`: `NFRAMES` is at most 2^32 / 320, a frame at most 120 bytes
(10_state.md R25). -/
theorem encodedBytes_lt (a : Word) (m : Mode) {k : Nat} (hk : k ≤ 120) :
    a.toNat / m.blk * k < 2 ^ 32 := by
  have hblk : 320 ≤ m.blk := by cases m <;> decide
  have hlt : a.toNat < 2 ^ 32 := a.isLt
  calc a.toNat / m.blk * k ≤ a.toNat / m.blk * m.blk := Nat.mul_le_mul_left _ (by omega)
    _ ≤ a.toNat := Nat.div_mul_le_self _ _
    _ < 2 ^ 32 := hlt

/-- Settles O19: `CMD_CHECK` passes, each frame completes, and the frames leave the rest alone. -/
theorem encodeCompletesWithWholeFrames : Obligations.EncodeCompletesWithWholeFrames := by
  intro s hv hl hn hready
  obtain ⟨-, hbytes, hmax⟩ := frameBytes_of_legalRate hl
  have hpass := runCommand_pass (i := .encode .enc) (s := s) rfl rfl (fun side h => by cases h; exact hv)
    rfl hn encodeBody
  obtain ⟨u, hu, hrun, hnf, hwritten, hkept⟩ := Completes.frameLoop
    (fun f hf => encodeFrame_completes (s₀ := beginCommand (wordOf (.encode .enc))
      (s.arg0.toNat / s.e.mode.blk) s) hl hf hn hready)
    (fun f t ht => ht.setSeq rfl) (s.arg0.toNat / s.e.mode.blk) 0 (by simp) _
    ⟨.refl _, rfl, by simp, fun _ _ => rfl⟩
  rw [Nat.zero_add] at hwritten hkept
  have hexec : exec (.encode .enc) s = .next (finishEncode u) :=
    hpass.trans (thenDo_eq_next.mpr ⟨u, hu, rfl⟩)
  have hunits : u.seq.nframes * encBypf u = s.arg0.toNat / s.e.mode.blk * (s.e.rate.toNat / 400) := by
    obtain ⟨-, -, -, hrate⟩ := hrun.same
    rw [hnf, encBypf, hrate, ← hbytes]
    rfl
  have hframe : encBypf (beginCommand (wordOf (.encode .enc)) (s.arg0.toNat / s.e.mode.blk) s) =
      s.e.rate.toNat / 400 := hbytes
  rw [hframe] at hwritten hkept
  refine ⟨_, hexec, rfl, ?_, rfl, hwritten, hkept, ?_⟩
  · rw [finishEncode, complete_result, hunits, BitVec.toNat_ofNat]
    exact Nat.mod_eq_of_lt (encodedBytes_lt _ _ (hbytes ▸ hmax))
  · obtain ⟨_, _, _, _, _, rfl⟩ := hrun
    exact ⟨fun _ => rfl, rfl, rfl, rfl, rfl, rfl, rfl, rfl, rfl, hv, rfl, rfl⟩

end Sys2Proof.Machine
end

section
/-! PROOF. A frame is decoded from any bytes and any ROM: no read leaves the frame, so that none faults
(41_bitstream.md R190; 30_encoding.md R120). -/

namespace Sys2Proof.Machine

/-! ## Reads inside a frame -/

/-- While bits of the frame are left, the reader stands in it; without bits left nothing is read (R190). -/
def InFrame (m : List Host.Cell) (br : BitReader) (base n : Nat) : Prop :=
  0 < br.rem → readerAt m br base n

section
variable {s : State} {base n : Nat}

theorem getBit_inFrame (hf : frameReady s base n) {br : BitReader} (h : InFrame s.bs br base n) :
    ∃ r br', getBit (readBs s) br = .ok (r, br') ∧ InFrame s.bs br' base n := by
  by_cases hpos : 0 < br.rem
  · obtain ⟨b, br', hget, hat, -, -⟩ := getBit_in_frame hf (h hpos) hpos
    exact ⟨some b, br', hget, fun _ => hat⟩
  · exact ⟨none, br, getBit_exhausted (Int.not_lt.mp hpos), h⟩

theorem getBits_inFrame (hf : frameReady s base n) (k : Nat) {br : BitReader}
    (h : InFrame s.bs br base n) :
    ∃ r br', getBits (readBs s) k br = .ok (r, br') ∧ InFrame s.bs br' base n := by
  induction k generalizing br with
  | zero => exact ⟨some [], br, rfl, h⟩
  | succ k ih =>
    obtain ⟨r, br1, h1, hin1⟩ := getBit_inFrame hf h
    rw [getBits, h1]
    cases r with
    | none => exact ⟨none, br1, rfl, hin1⟩
    | some b =>
      obtain ⟨r, br2, h2, hin2⟩ := ih hin1
      dsimp only
      rw [h2]
      cases r with
      | none => exact ⟨none, br2, rfl, hin2⟩
      | some bits => exact ⟨some (b :: bits), br2, rfl, hin2⟩

theorem walkFrom_inFrame (hf : frameReady s base n) (tree : Nat → TreeNode) (fuel node : Nat)
    {br : BitReader} (h : InFrame s.bs br base n) :
    ∃ r br', walkFrom (readBs s) tree fuel node br = .ok (r, br') ∧ InFrame s.bs br' base n := by
  induction fuel generalizing node br with
  | zero => exact ⟨none, br, rfl, h⟩
  | succ fuel ih =>
    obtain ⟨r, br1, h1, hin1⟩ := getBit_inFrame hf h
    rw [walkFrom, h1]
    cases r with
    | none => exact ⟨none, br1, rfl, hin1⟩
    | some b =>
      dsimp only
      split
      · exact ⟨_, br1, rfl, hin1⟩
      · exact ih _ hin1

theorem walkTree_inFrame (hf : frameReady s base n) (tree : Nat → TreeNode) {br : BitReader}
    (h : InFrame s.bs br base n) :
    ∃ r br', walkTree (readBs s) tree br = .ok (r, br') ∧ InFrame s.bs br' base n :=
  walkFrom_inFrame hf tree _ 0 h

theorem decodeDeltas_inFrame (hf : frameReady s base n) (rom : Rom) (k r : Nat) (abs : Vector I16 28)
    {br : BitReader} (h : InFrame s.bs br base n) :
    ∃ whole abs' br', decodeDeltas (readBs s) rom k r abs br = .ok (whole, abs', br') ∧
      InFrame s.bs br' base n := by
  induction k generalizing r abs br with
  | zero => exact ⟨true, abs, br, rfl, h⟩
  | succ k ih =>
    obtain ⟨j, br1, h1, hin1⟩ := walkTree_inFrame hf (drpTreeAt rom r) h
    rw [decodeDeltas, h1]
    cases j with
    | none => exact ⟨false, abs, br1, rfl, hin1⟩
    | some j => exact ih _ _ hin1

theorem readHeader_inFrame (hf : frameReady s base n) (rom : Rom) (m : Mode) (w : WorkRegs)
    {br : BitReader} (h : InFrame s.bs br base n) :
    ∃ w' br', readHeader (readBs s) rom m w br = .ok (w', br') ∧ InFrame s.bs br' base n := by
  obtain ⟨p0, br1, h1, hin1⟩ := getBits_inFrame hf 5 h
  rw [readHeader, h1]
  cases p0 with
  | none => exact ⟨_, br1, rfl, hin1⟩
  | some p0 =>
    obtain ⟨whole, abs, br2, h2, hin2⟩ := decodeDeltas_inFrame hf rom (m.nreg - 1) 1
      (vset w.abs 0 (toI16 (natOfBits p0 - esfAdj))) hin1
    dsimp only
    rw [h2]
    cases whole with
    | false => exact ⟨_, br2, rfl, hin2⟩
    | true =>
      obtain ⟨cc, br3, h3, hin3⟩ := getBits_inFrame hf m.ccbits hin2
      dsimp only
      rw [h3]
      cases cc with
      | none => exact ⟨_, br3, rfl, hin3⟩
      | some cc => exact ⟨_, br3, rfl, hin3⟩

theorem decodeVectors_inFrame (hf : frameReady s base n) (b : Build) (sd : SigReg 28) (r c k pos : Nat)
    (coef : SigReg 640) {br : BitReader} (h : InFrame s.bs br base n) :
    ∃ whole coef' br', decodeVectors (readBs s) b sd r c k pos coef br = .ok (whole, coef', br') ∧
      InFrame s.bs br' base n := by
  induction k generalizing pos coef br with
  | zero => exact ⟨true, coef, br, rfl, h⟩
  | succ k ih =>
    obtain ⟨index, br1, h1, hin1⟩ := walkTree_inFrame hf (vqTreeAt b.rom c) h
    rw [decodeVectors, h1]
    cases index with
    | none => exact ⟨false, coef, br1, rfl, hin1⟩
    | some index =>
      dsimp only
      split
      · exact ⟨false, coef, br1, rfl, hin1⟩
      · obtain ⟨signs, br2, h2, hin2⟩ := getBits_inFrame hf (decompose b.rom index c).2 hin1
        rw [h2]
        cases signs with
        | none => exact ⟨false, coef, br2, rfl, hin2⟩
        | some signs => exact ih _ _ hin2

/-! ## Micro-operations that read -/

theorem pwrDec_reads (hf : frameReady s base n) (h : InFrame s.bs s.d.br base n) :
    ∃ t, exec .pwrDec s = .next t ∧ InFrame s.bs t.d.br base n := by
  obtain ⟨w, br, hread, hin⟩ := readHeader_inFrame hf s.build.rom s.d.mode s.w h
  refine ⟨(s.setW w).setD { s.d with br := br }, ?_, hin⟩
  show execPwrDec s = _
  rw [execPwrDec, hread]

theorem vqDec_reads (hf : frameReady s base n) (h : InFrame s.bs s.d.br base n) :
    ∃ t, exec .vqDec s = .next t ∧ InFrame s.bs t.d.br base n := by
  show ∃ t, execVqDec s = .next t ∧ _
  rw [execVqDec]
  dsimp only
  split
  · exact ⟨s, rfl, h⟩
  · obtain ⟨whole, coef, br, hread, hin⟩ := decodeVectors_inFrame hf s.build s.w.sd s.seq.region.val
      (vget s.w.cat s.seq.region.val).val
      (vget s.build.rom.nvec (vget s.w.cat s.seq.region.val).val) (20 * s.seq.region.val) s.w.coef h
    rw [hread]
    cases whole with
    | true => exact ⟨_, rfl, hin⟩
    | false => exact ⟨_, rfl, fun hpos => absurd hpos (by simp)⟩

theorem frameCheck_reads (hf : frameReady s base n) (h : InFrame s.bs s.d.br base n) :
    completes (exec .frameCheck s) := by
  obtain ⟨bits, br, hread, -⟩ := getBits_inFrame hf s.d.br.rem.toNat h
  show completes (execFrameCheck s)
  rw [execFrameCheck, hread]
  exact ⟨_, rfl⟩

end

end Sys2Proof.Machine
end

section
/-! PROOF. `DECODE` completes whatever the bytes hold: the frame sequence from one state condition to the next
(47_frame_commands.md R375, R376, R378). -/

namespace Sys2Proof.Machine

/-! ## Before and during a frame -/

/-- Before frame `f` of a `DECODE` or `FILL_IN` from `s₀`: the samples of the frames below `f` are written, the
rest of `PCMBUF` is as it was. -/
structure DecodeAt (s₀ : State) (f : Nat) (s : State) : Prop where
  run : DecRun s₀ s
  port : s.port = s₀.port
  nframes : s.seq.nframes = s₀.seq.nframes
  written : ∀ a < f * s₀.d.mode.blk, (Memory.read s.pcm a).isSome = true
  kept : ∀ a, f * s₀.d.mode.blk ≤ a → Memory.read s.pcm a = Memory.read s₀.pcm a

/-- During frame `f` the frame is the one in `SEQ.FRAME`. -/
def DecodeIn (s₀ : State) (f : Nat) (s : State) : Prop := DecodeAt s₀ f s ∧ s.seq.frame = f

/-- After `BS_RINIT` the reader stands in frame `f`, as long as bits of it are left (41_bitstream.md R189). -/
def DecodeReading (s₀ : State) (f : Nat) (s : State) : Prop :=
  DecodeIn s₀ f s ∧ InFrame s.bs s.d.br (f * decBypf s₀) (decBpf s₀)

/-- What the frames of a `DECODE` or `FILL_IN` leave alone. -/
theorem DecRun.same {s t : State} (h : DecRun s t) :
    t.build = s.build ∧ t.bs = s.bs ∧ t.d.mode = s.d.mode ∧ t.d.rate = s.d.rate := by
  obtain ⟨_, _, _, _, _, _, _, _, _, rfl⟩ := h
  exact ⟨rfl, rfl, rfl, rfl⟩

/-- The micro-operations of `DECODE` leave `SEQ`, and all but the called ones the port (10_state.md R33; log
entry 9). -/
theorem decoderUop_seq_port {i : Instr} (hi : i ∈ decoderUops) (hn : i ∉ [.bsGet, .rand]) {s t : State}
    (h : exec i s = .next t) : t.seq = s.seq ∧ t.port = s.port := by
  by_cases hw : i ∈ workUops
  · obtain ⟨w, rfl⟩ := workUop_writes hw h; exact ⟨rfl, rfl⟩
  · cases i with
    | pwrDec => obtain ⟨_, _, _, br, rfl⟩ := execPwrDec_next h; exact ⟨rfl, rfl⟩
    | vqDec => obtain ⟨_, _, _, br, rfl⟩ := execVqDec_next h; exact ⟨rfl, rfl⟩
    | noiseFill => obtain ⟨coef, rand, rfl⟩ := execNoiseFill_next h; exact ⟨rfl, rfl⟩
    | frameCheck => obtain ⟨ferr, br, rfl⟩ := execFrameCheck_next h; exact ⟨rfl, rfl⟩
    | storePcm => obtain ⟨-, rfl⟩ := execStorePcm_next h; exact ⟨rfl, rfl⟩
    | idle | bsRinit | conceal | winSyn => cases h; exact ⟨rfl, rfl⟩
    | _ => simp [decoderUops, concealUops, workUops] at hi hn hw

section
variable {s₀ : State} {f : Nat}

theorem DecodeAt.setSeq {s : State} (h : DecodeAt s₀ f s) {q : SeqRegs}
    (hq : q.nframes = s.seq.nframes) : DecodeAt s₀ f (s.setSeq q) :=
  ⟨h.run.trans (.of_setSeq s q), h.port, hq.trans h.nframes, h.written, h.kept⟩

theorem DecodeAt.setW {s : State} (h : DecodeAt s₀ f s) (w : WorkRegs) : DecodeAt s₀ f (s.setW w) :=
  ⟨h.run.trans (DecWrites.of_setW s w).run, h.port, h.nframes, h.written, h.kept⟩

theorem DecodeIn.setPhase {s : State} (h : DecodeIn s₀ f s) (c : Byte) : DecodeIn s₀ f (s.setPhase c) :=
  ⟨h.1.setSeq rfl, h.2⟩

theorem DecodeReading.setPhase {s : State} (h : DecodeReading s₀ f s) (c : Byte) :
    DecodeReading s₀ f (s.setPhase c) := ⟨h.1.setPhase c, h.2⟩

theorem DecodeReading.setRegion {s : State} (h : DecodeReading s₀ f s) (r : Nat) :
    DecodeReading s₀ f (s.setRegion r) := ⟨⟨h.1.1.setSeq rfl, h.1.2⟩, h.2⟩

/-- A micro-operation that does not write `PCMBUF` keeps what the earlier frames wrote. -/
theorem DecodeIn.uop {i : Instr} (hi : i ∈ decoderUops) (hn : i ∉ [.storePcm, .bsGet, .rand])
    {s t : State} (h : DecodeIn s₀ f s) (hx : exec i s = .next t) : DecodeIn s₀ f t := by
  obtain ⟨hat, hframe⟩ := h
  have hbuf : i.isCommand = false ∧ i ∉ [.storePcm, .bsPut, .bsFlush, .pack] := by
    revert hi hn
    cases i <;> simp [decoderUops, concealUops, Instr.isCommand]
  obtain ⟨hpcm, -⟩ := uop_buffers hbuf.1 hbuf.2 hx
  obtain ⟨hseq, hport⟩ := decoderUop_seq_port hi (fun h => hn (List.mem_cons_of_mem _ h)) hx
  exact ⟨⟨hat.run.trans (decoderUop_writes hi hx).run, hport.trans hat.port, by rw [hseq, hat.nframes],
    by rw [hpcm]; exact hat.written, by rw [hpcm]; exact hat.kept⟩, by rw [hseq, hframe]⟩

/-- The micro-operations of `DECODE` that neither read a bit nor store a sample. -/
def decoderQuietUops : List Instr :=
  [.bsRinit, .sdShift, .categorize, .catReplay, .noiseFill, .conceal, .dct4Inv, .winSyn]

theorem decoderQuietUops_decoder {i : Instr} (hi : i ∈ decoderQuietUops) :
    i ∈ decoderUops ∧ i ∉ [.storePcm, .bsGet, .rand] := by
  revert hi
  cases i <;> simp [decoderQuietUops, decoderUops, concealUops]

theorem decoderQuietUop_completes {i : Instr} (hi : i ∈ decoderQuietUops) (s : State) :
    completes (exec i s) := by
  cases i with
  | bsRinit | sdShift | categorize | catReplay | conceal | dct4Inv | winSyn => exact ⟨_, rfl⟩
  | noiseFill =>
    show completes (execNoiseFill s)
    rw [execNoiseFill]
    dsimp only
    split <;> exact ⟨_, rfl⟩
  | _ => simp [decoderQuietUops] at hi

theorem DecodeIn.turn_quiet {i : Instr} (hi : i ∈ decoderQuietUops) :
    Completes (DecodeIn s₀ f) (turn i) (DecodeIn s₀ f) :=
  .turn (fun _ c h => h.setPhase c) <| .of_next (fun s _ => decoderQuietUop_completes hi s) fun _ _ h hx =>
    h.uop (decoderQuietUops_decoder hi).1 (decoderQuietUops_decoder hi).2 hx

/-- Those that leave the read cursor. -/
theorem DecodeReading.turn {i : Instr} (hi : i ∈ [.sdShift, .categorize, .catReplay, .noiseFill]) :
    Completes (DecodeReading s₀ f) (turn i) (DecodeReading s₀ f) := by
  have hquiet : i ∈ decoderQuietUops := by
    revert hi
    cases i <;> simp [decoderQuietUops]
  have hbr (s t : State) (hx : exec i s = .next t) : t.bs = s.bs ∧ t.d.br = s.d.br := by
    by_cases hn : i = .noiseFill
    · subst hn
      obtain ⟨coef, rand, rfl⟩ := execNoiseFill_next hx
      exact ⟨rfl, rfl⟩
    · have hwork : i ∈ workUops := by
        revert hi hn
        cases i <;> simp [workUops]
      obtain ⟨w, rfl⟩ := workUop_writes hwork hx
      exact ⟨rfl, rfl⟩
  refine .turn (fun _ c h => h.setPhase c) <| .of_next (fun s _ => decoderQuietUop_completes hquiet s) ?_
  rintro s t ⟨hin, hread⟩ hx
  obtain ⟨hbs, hcur⟩ := hbr s t hx
  exact ⟨hin.uop (decoderQuietUops_decoder hquiet).1 (decoderQuietUops_decoder hquiet).2 hx,
    by rwa [hbs, hcur]⟩

/-! ## The reads of a frame -/

theorem bsRinit_completes : Completes (DecodeIn s₀ f) (turn .bsRinit) (DecodeReading s₀ f) := by
  refine .turn (fun _ c h => h.setPhase c) fun s h => ?_
  obtain ⟨-, -, -, hrate⟩ := h.1.run.same
  have hptr : s.seq.frame * decBypf s = f * decBypf s₀ := by rw [h.2, decBypf, hrate, decBypf]
  have hrem : decBpf s = decBpf s₀ := by rw [decBpf, hrate, decBpf]
  refine ⟨_, rfl, h.uop (i := .bsRinit) (by simp [decoderUops]) (by simp) rfl, fun _ => ?_⟩
  simp only [State.setD_d, State.setD_bs, hptr, hrem]
  exact ⟨by simp, Int.le_refl _, by simp, by simp, rfl⟩

/-- The bytes of frame `f` stand ready in every state of the frame. -/
def FramesReady (s₀ : State) (f : Nat) : Prop :=
  ∀ s, DecRun s₀ s → frameReady s (f * decBypf s₀) (decBpf s₀)

theorem framesReady_of_bytesReady (hl : legalRate s₀.d.rate.toNat = true) (hf : f < s₀.seq.nframes)
    (hn : s₀.seq.nframes ≤ s₀.build.maxFrames)
    (hready : bytesReady s₀ 0 (s₀.seq.nframes * decBypf s₀)) : FramesReady s₀ f := by
  intro s hrun
  obtain ⟨hbuild, hbs, -, -⟩ := hrun.same
  obtain ⟨hbits, -, hmax⟩ := frameBytes_of_legalRate hl
  have hbits : decBpf s₀ = 8 * decBypf s₀ := hbits
  have hlen : decBpf s₀ / 8 = decBypf s₀ := rfl
  obtain ⟨hlast, hcap⟩ := frame_end_le hf hmax hn
  have hlast : f * decBypf s₀ + decBypf s₀ ≤ s₀.seq.nframes * decBypf s₀ := hlast
  refine ⟨by omega, fun i h1 h2 => ?_, ?_⟩
  · rw [hbs]
    exact hready i (Nat.zero_le i) (by omega)
  · rw [hlen, bsCap, hbuild]
    exact hlast.trans hcap

/-- `PWR_DEC` and `VQ_DEC`, which read bits and go on. -/
theorem reading_turn (hready : FramesReady s₀ f) {i : Instr} (hi : i ∈ [.pwrDec, .vqDec]) :
    Completes (DecodeReading s₀ f) (turn i) (DecodeReading s₀ f) := by
  refine .turn (fun _ c h => h.setPhase c) ?_
  rintro s ⟨hin, hread⟩
  have hdec : i ∈ decoderUops ∧ i ∉ [.storePcm, .bsGet, .rand] ∧ i.isCommand = false ∧
      i ∉ [.storePcm, .bsPut, .bsFlush, .pack] := by
    revert hi
    cases i <;> simp [decoderUops, Instr.isCommand]
  obtain ⟨hside, hquiet, hcmd, hbuf⟩ := hdec
  obtain ⟨t, hx, ht⟩ : ∃ t, exec i s = .next t ∧ InFrame s.bs t.d.br (f * decBypf s₀) (decBpf s₀) := by
    cases i with
    | pwrDec => exact pwrDec_reads (hready s hin.1.run) hread
    | vqDec => exact vqDec_reads (hready s hin.1.run) hread
    | _ => simp at hi
  exact ⟨t, hx, hin.uop hside hquiet hx, by rw [(uop_buffers hcmd hbuf hx).2]; exact ht⟩

theorem decodeRegions_completes (hready : FramesReady s₀ f) (k r : Nat) :
    Completes (DecodeReading s₀ f) (decodeRegions k r) (DecodeReading s₀ f) := by
  induction k generalizing r with
  | zero => exact fun s h => ⟨s, rfl, h⟩
  | succ k ih =>
    intro s h
    exact (reading_turn hready (i := .vqDec) (by simp)).thenDo
      ((DecodeReading.turn (i := .noiseFill) (by simp)).thenDo (ih (r + 1))) _ (h.setRegion r)

theorem frameCheck_completes (hready : FramesReady s₀ f) :
    Completes (DecodeReading s₀ f) (turn .frameCheck) (DecodeIn s₀ f) :=
  .turn (fun _ c h => h.setPhase c) <|
    .of_next (fun s h => frameCheck_reads (hready s h.1.1.run) h.2) fun _ _ h hx =>
      h.1.uop (by simp [decoderUops]) (by simp) hx

/-- Steps 3 to 8 of R376. -/
theorem decodeBody_completes (hready : FramesReady s₀ f) :
    Completes (DecodeReading s₀ f) decodeBody (DecodeIn s₀ f) := by
  have havail : Completes (DecodeReading s₀ f) (act decAvail) (DecodeReading s₀ f) :=
    .act fun s h => ⟨⟨h.1.1.setW _, h.1.2⟩, h.2⟩
  have hregions : Completes (DecodeReading s₀ f) (fun t => decodeRegions t.d.mode.nreg 0 t)
      (DecodeReading s₀ f) := fun s h => decodeRegions_completes hready _ 0 s h
  exact .cons (DecodeReading.turn (i := .sdShift) (by simp)) <| .cons havail <|
    .cons (DecodeReading.turn (i := .categorize) (by simp)) <|
    .cons (DecodeReading.turn (i := .catReplay) (by simp)) <| .cons hregions <|
    .cons (frameCheck_completes hready) .nil

/-! ## The end of a frame -/

/-- `STORE_PCM` writes exactly the frame's samples (R379). -/
theorem storePcm_completes (hf : f < s₀.seq.nframes) (hn : s₀.seq.nframes ≤ s₀.build.maxFrames) :
    Completes (DecodeIn s₀ f) (turn .storePcm) (DecodeAt s₀ (f + 1)) := by
  refine .turn (fun _ c h => h.setPhase c) ?_
  rintro s ⟨hat, hframe⟩
  obtain ⟨hbuild, -, hmode, -⟩ := hat.run.same
  obtain ⟨hlast, hcap⟩ := frame_end_le hf (blk_le s₀.d.mode) hn
  have hbase : s.seq.frame * s.d.mode.blk = f * s₀.d.mode.blk := by rw [hframe, hmode]
  have hroom : s.seq.frame * s.d.mode.blk + s.d.mode.blk ≤ pcmCap s := by
    rw [hbase, hmode, pcmCap, hbuild]
    exact hlast.trans hcap
  refine ⟨_, exec_storePcm_ok hroom, ?_, hat.port, hat.nframes, fun a ha => ?_, fun a ha => ?_⟩
  · exact hat.run.trans (DecWrites.run ⟨_, _, _, _, _, _, _, _, rfl⟩)
  · rw [Nat.succ_mul] at ha
    rw [State.setPcm_pcm]
    rcases Nat.lt_or_ge a (f * s₀.d.mode.blk) with hlt | hge
    · rw [read_storedPcm_outside s (by omega)]
      exact hat.written a hlt
    · obtain ⟨i, rfl⟩ := Nat.exists_eq_add_of_le hge
      rw [← hbase, read_storedPcm_inside s (by rw [hmode]; omega)]
      rfl
  · rw [Nat.succ_mul] at ha
    rw [State.setPcm_pcm, read_storedPcm_outside s (.inr (by rw [hbase, hmode]; omega))]
    exact hat.kept a (by omega)

/-- Steps 9 to 13 of R376, the same in R383. -/
theorem concealTail_completes (hf : f < s₀.seq.nframes) (hn : s₀.seq.nframes ≤ s₀.build.maxFrames) :
    Completes (DecodeIn s₀ f) concealTail (DecodeAt s₀ (f + 1)) :=
  .cons (DecodeIn.turn_quiet (i := .conceal) (by simp [decoderQuietUops])) <|
  .cons (DecodeIn.turn_quiet (i := .dct4Inv) (by simp [decoderQuietUops])) <|
  .cons (DecodeIn.turn_quiet (i := .winSyn) (by simp [decoderQuietUops])) <|
  .cons (storePcm_completes hf hn) <|
  .cons (.act (f := frameEnd) fun _ h => h.setSeq rfl) .nil

/-- A frame of `DECODE` (R376) completes on any bytes, its header exhausted or not. -/
theorem decodeFrame_completes (hl : legalRate s₀.d.rate.toNat = true) (hf : f < s₀.seq.nframes)
    (hn : s₀.seq.nframes ≤ s₀.build.maxFrames)
    (hready : bytesReady s₀ 0 (s₀.seq.nframes * decBypf s₀)) :
    Completes (DecodeIn s₀ f) decodeFrame (DecodeAt s₀ (f + 1)) := by
  have hready := framesReady_of_bytesReady hl hf hn hready
  have hstart : Completes (DecodeIn s₀ f) (act decodeFrameStart) (DecodeIn s₀ f) :=
    .act fun s h => ⟨h.1.setW _, h.2⟩
  have hbody : Completes (DecodeReading s₀ f)
      (fun s => if headerFailed s then .next s else decodeBody s) (DecodeIn s₀ f) := by
    intro s h
    dsimp only
    split
    · exact ⟨s, rfl, h.1⟩
    · exact decodeBody_completes hready s h
  exact .cons hstart <| .cons bsRinit_completes <|
    .cons (reading_turn hready (i := .pwrDec) (by simp)) <| .cons hbody <|
    .cons (concealTail_completes hf hn) .nil

end

/-! ## The command -/

/-- Settles O20: `CMD_CHECK` passes, each frame completes on any bytes, and the frames leave the rest alone. -/
theorem decodeCompletesOnAnyBytes : Obligations.DecodeCompletesOnAnyBytes := by
  intro s hv hl hn hready
  obtain ⟨-, hbytes, -⟩ := frameBytes_of_legalRate hl
  have hbytes : decBypf s = s.d.rate.toNat / 400 := hbytes
  rw [← hbytes] at hn hready ⊢
  have hpass := runCommand_pass (i := .decode .dec) (s := s) rfl rfl (fun side h => by cases h; exact hv)
    rfl hn decodeCommandBody
  obtain ⟨u, hu, hrun, hport, hnf, hwritten, hkept⟩ := Completes.frameLoop
    (fun f hf => decodeFrame_completes (s₀ := clearRecord (beginCommand (wordOf (.decode .dec))
      (s.arg0.toNat / decBypf s) s)) hl hf hn hready)
    (fun f t ht => ht.setSeq rfl) (s.arg0.toNat / decBypf s) 0 (by simp) _
    ⟨.refl _, rfl, rfl, by simp, fun _ _ => rfl⟩
  rw [Nat.zero_add] at hwritten hkept
  have hexec : exec (.decode .dec) s = .next (finishDecode u) :=
    hpass.trans (thenDo_eq_next.mpr ⟨u, hu, rfl⟩)
  obtain ⟨hzero, hconc⟩ := errInfoWord_sound u.seq
  obtain ⟨-, hbs, hmode, -⟩ := hrun.same
  have hresult : (finishDecode u).result =
      BitVec.ofNat 32 (s.arg0.toNat / decBypf s * s.d.mode.blk) := by
    rw [finishDecode, complete_result, hnf, hmode]
    rfl
  have hany : (finishDecode u).ferrAny = true ↔
      (finishDecode u).errInfo.extractLsb' 16 16 ≠ 0#16 := by
    show ferrAnyOf u.seq = true ↔ (errInfoWord u.seq).extractLsb' 16 16 ≠ 0#16
    simp [hconc, ferrAnyOf]
  refine ⟨_, hexec, rfl, hresult, rfl, hwritten, hkept, ?_, hzero, hany, ?_⟩
  · show ∀ a, Memory.read (w := 8) u.bs a = _
    exact fun a => by rw [hbs]; rfl
  · obtain ⟨_, _, _, _, _, _, _, _, _, rfl⟩ := hrun
    exact ⟨rfl, rfl, rfl, rfl, rfl, hport, hv, rfl, rfl⟩

end Sys2Proof.Machine
end

section
/-! PROOF. The decoder accepts the encodings of well-formed instructions and nothing else, and an illegal
command word reports `ILL_CMD` (30_encoding.md R101 to R105). -/

namespace Sys2Proof.Machine

/-! ## The fields of a command word -/

theorem cmdOpc_toNat (w : Word) : (cmdOpc w).toNat = w.toNat / 2 ^ 24 := by
  have := w.isLt
  simp only [cmdOpc, BitVec.extractLsb'_toNat, Nat.shiftRight_eq_div_pow]
  omega

theorem cmdZero_eq_zero_iff (w : Word) : cmdZero w = 0#23 ↔ w.toNat % 2 ^ 23 = 0 := by
  simp [← BitVec.toNat_inj, cmdZero, BitVec.extractLsb'_toNat]

theorem cmdSide_eq_dec_iff (w : Word) : cmdSide w = .dec ↔ w.toNat / 2 ^ 23 % 2 = 1 := by
  have hbit : w.getLsbD 23 = decide (w.toNat / 2 ^ 23 % 2 = 1) := by
    rw [← BitVec.testBit_toNat, Nat.testBit_eq_decide_div_mod_eq]
  rw [cmdSide, hbit]
  split
  next h => exact iff_of_true rfl (of_decide_eq_true h)
  next h => exact iff_of_false nofun fun h' => h (decide_eq_true h')

theorem commandWord_toNat (opc : Byte) (side : Side) :
    (commandWord opc side).toNat = opc.toNat * 2 ^ 24 + if side = .dec then 2 ^ 23 else 0 := by
  cases side <;> revert opc <;> decide

/-- A word whose `ZERO` field is 0 is the one that its two other fields make (R101). -/
theorem commandWord_fields {w : Word} (h : cmdZero w = 0#23) : commandWord (cmdOpc w) (cmdSide w) = w := by
  apply BitVec.eq_of_toNat_eq
  rw [cmdZero_eq_zero_iff] at h
  simp only [commandWord_toNat, cmdOpc_toNat, cmdSide_eq_dec_iff]
  split <;> omega

/-! ## The opcode map -/

/-- The opcode map answers the instruction whose word has these fields (R102). -/
theorem encode_of_commandOf {opc : Byte} {side : Side} {i : Instr} (h : commandOf opc side = some i) :
    encode i = .cmd (commandWord opc side) := by
  unfold commandOf at h
  split_ifs at h with h1 h2 h3 h4 h5 h6 <;> cases h <;> subst opc <;> rfl

/-- Which opcodes have an instruction for a side (R102, R105). -/
theorem commandOf_wellFormed_iff (opc : Byte) (side : Side) :
    (∃ i, commandOf opc side = some i ∧ i.wellFormed = true) ↔
      ¬ (opc.toNat = 0 ∨ 7 ≤ opc.toNat ∨ (opc.toNat = 3 ∧ side = .dec) ∨
        ((opc.toNat = 4 ∨ opc.toNat = 5) ∧ side = .enc)) := by
  unfold commandOf
  split_ifs with h1 h2 h3 h4 h5 h6
  iterate 6 subst opc; cases side <;> simp [Instr.wellFormed]
  simp only [← BitVec.toNat_inj, BitVec.toNat_ofNat] at h1 h2 h3 h4 h5 h6
  simp
  omega

/-- What a command word that decodes is (R101, R102, R105). -/
theorem decodeCommand_ok_iff {w : Word} {i : Instr} :
    decodeCommand w = .ok i ↔
      commandOf (cmdOpc w) (cmdSide w) = some i ∧ cmdZero w = 0#23 ∧ i.wellFormed = true := by
  unfold decodeCommand
  split
  next hnone => simp [hnone]
  next j hsome =>
    rw [hsome, Option.some.injEq]
    split_ifs with hzero hwf
    · exact iff_of_false nofun fun h => hzero h.2.1
    · exact ⟨fun h => by cases h; exact ⟨rfl, of_not_not hzero, hwf⟩, fun h => by rw [h.1]⟩
    · exact iff_of_false nofun fun ⟨hj, _, h⟩ => hwf (hj ▸ h)

/-! ## The round trip -/

/-- The micro-operation table lists each code's own instruction (R104). -/
theorem decodePhase_ok {c : Byte} {i : Instr} (h : decodePhase c = .ok i) :
    i.wellFormed = true ∧ encode i = .phase c := by
  have htable : ∀ p ∈ uopTable, p.2.wellFormed = true ∧ encode p.2 = .phase p.1 := by decide
  unfold decodePhase at h
  split at h
  next j hl =>
    cases h
    obtain ⟨l, r, hl, -⟩ := List.lookup_eq_some_iff.mp hl
    exact htable (c, i) (by simp [hl])
  next => cases h

/-- Every well-formed instruction is what its encoding decodes to: a command by its word, a micro-operation by
its code. -/
theorem decode_encode {i : Instr} (h : i.wellFormed = true) : decode (encode i) = .ok i := by
  cases i with
  | init side => exact decodeCommand_wordOf (i := .init side) rfl h
  | setRate side => exact decodeCommand_wordOf (i := .setRate side) rfl h
  | encode side => exact decodeCommand_wordOf (i := .encode side) rfl h
  | decode side => exact decodeCommand_wordOf (i := .decode side) rfl h
  | fillIn side => exact decodeCommand_wordOf (i := .fillIn side) rfl h
  | release side => exact decodeCommand_wordOf (i := .release side) rfl h
  | _ => rfl

/-- Settles O1: a command word by its fields, a phase code by the table. -/
theorem decodingAcceptsExactlyTheEncodings : Obligations.DecodingAcceptsExactlyTheEncodings := by
  intro c i
  constructor
  · intro h
    cases c with
    | cmd w =>
      obtain ⟨hof, hzero, hwf⟩ := decodeCommand_ok_iff.mp h
      exact ⟨hwf, by rw [encode_of_commandOf hof, commandWord_fields hzero]⟩
    | phase c => exact decodePhase_ok h
  · rintro ⟨hwf, rfl⟩
    exact decode_encode hwf

/-- Settles O2. -/
theorem tabulatedWordsDecodeAsWritten : Obligations.TabulatedWordsDecodeAsWritten := by
  unfold Obligations.TabulatedWordsDecodeAsWritten
  decide

/-! ## Illegal words -/

/-- A word is rejected where it decodes to no instruction. -/
theorem decodeCommand_error_iff (w : Word) :
    (∃ e, decodeCommand w = .error e) ↔ ¬ ∃ i, decodeCommand w = .ok i := by
  cases decodeCommand w <;> simp

/-- At `IDLE` a write of an illegal word to `CMD` is the command error of R105. -/
theorem step_illegal {s : State} {w : Word} {rest : List HostAccess} {e : DecodeError}
    (hphase : s.seq.phase = 0x00#8) (hp : s.host.pending = .regWrite 0x00 32 w :: rest)
    (hd : decodeCommand w = .error e) :
    step s = .next (commandError .illCmd (s.setHost { s.host with pending := rest, cmdWord := w })) := by
  simp [step, fetch, hphase, hp, hd, takeCommand]

/-- Settles O12: the words that decode by their fields, and the step on any other. -/
theorem illegalCommandWordsReportIllCmdOnly : Obligations.IllegalCommandWordsReportIllCmdOnly := by
  intro w opc side low illegal
  have hside (x : Side) : x = .enc ↔ ¬ x = .dec := by cases x <;> simp
  have hok : (∃ i, decodeCommand w = .ok i) ↔
      (∃ i, commandOf (cmdOpc w) (cmdSide w) = some i ∧ i.wellFormed = true) ∧ cmdZero w = 0#23 := by
    simp only [decodeCommand_ok_iff]
    exact ⟨fun ⟨i, hof, hzero, hwf⟩ => ⟨⟨i, hof, hwf⟩, hzero⟩,
      fun ⟨⟨i, hof, hwf⟩, hzero⟩ => ⟨i, hof, hzero, hwf⟩⟩
  have hill : illegal ↔ ∃ e, decodeCommand w = .error e := by
    rw [decodeCommand_error_iff, hok, commandOf_wellFormed_iff, cmdOpc_toNat, hside,
      cmdSide_eq_dec_iff, cmdZero_eq_zero_iff]
    show (opc = 0 ∨ 7 ≤ opc ∨ low ≠ 0 ∨ (opc = 3 ∧ side = 1) ∨ ((opc = 4 ∨ opc = 5) ∧ side = 0)) ↔
      ¬ (¬ (opc = 0 ∨ 7 ≤ opc ∨ (opc = 3 ∧ side = 1) ∨ ((opc = 4 ∨ opc = 5) ∧ ¬ side = 1)) ∧ low = 0)
    have : side < 2 := Nat.mod_lt _ (by omega)
    omega
  refine ⟨hill, fun h s rest hphase hp => ?_⟩
  obtain ⟨e, he⟩ := hill.mp h
  have hidle : { s.seq with phase := 0x00#8 } = s.seq := by rw [← hphase]
  rw [step_illegal hphase hp he, commandError, State.setHost_seq, hidle]
  rfl

end Sys2Proof.Machine
end

section
/-! PROOF. `PACK` writes the frame's bits (47_frame_commands.md R374), and `VQ_ENC` the bits of one region
(46_vector_quantizer.md R322 to R327). -/

namespace Sys2Proof.Machine

/-! ## `PACK` -/

/-- A payload made `n` bits long reads as the payload, continued with ones (R374). -/
theorem lget_fitFrame (bits : List Bool) {n p : Nat} (hp : p < n) :
    lget (fitFrame bits n) p = bits.getD p true := by
  rw [fitFrame]
  split
  next hgt =>
    rw [lget_of_lt _ (by rw [List.length_take]; omega), List.getElem_take,
      List.getD_eq_getElem _ _ (Nat.lt_trans hp hgt)]
  next hle =>
    rw [lget_of_lt _ (by simp; omega), List.getElem_append]
    split
    next hlt => rw [List.getD_eq_getElem _ _ hlt]
    next hge => rw [List.getElem_replicate, List.getD_eq_default _ _ (Nat.not_lt.mp hge)]

@[simp] theorem length_packedBits (s : State) : (packedBits s).length = encBpf s := length_fitFrame _ _

theorem exec_pack_fault {s : State} (hroom : ¬ roomFor s (bytesOf s.e.bw (packedBits s).length) = true) :
    exec .pack s = .fault (packerFault s) := by
  show execPack s = _
  simp only [execPack, packedBits] at hroom ⊢
  rw [if_neg hroom]

/-- The packer with nothing pending writes the payload as whole bytes, and no others. -/
theorem putBits_packedBits {s : State} (hres : s.e.bw.res = 0) (h8 : encBpf s % 8 = 0) :
    let p := putBits (packedBits s) s.e.bw s.bs
    p.1.res = 0 ∧ p.1.ptr = s.e.bw.ptr + encBpf s / 8 ∧
      streamBits p.2 (8 * s.e.bw.ptr) (encBpf s) = (packedBits s).map some ∧
      (∀ a, s.e.bw.ptr ≤ a → a < s.e.bw.ptr + encBpf s / 8 →
        (Memory.read (w := 8) p.2 a).isSome = true) ∧
      ∀ a, a < s.e.bw.ptr ∨ s.e.bw.ptr + encBpf s / 8 ≤ a →
        Memory.read (w := 8) p.2 a = Memory.read (w := 8) s.bs a := by
  have happ := putBits_appends (packedBits s) (bw := s.e.bw) (by omega) s.bs
  have hcount : (s.e.bw.res + (packedBits s).length) / 8 = encBpf s / 8 := by
    rw [hres, length_packedBits, Nat.zero_add]
  have hwhole : 8 * (encBpf s / 8) = encBpf s := by omega
  have hnone : pendingBits s.e.bw = [] := by rw [pendingBits, hres]; rfl
  have hptr := happ.ptr
  have hstream := happ.split.1
  have hother := happ.other
  have hwritten := @happ.written
  rw [hcount] at hptr hother hwritten
  rw [hcount, hwhole, hnone, List.nil_append, List.take_of_length_le (by simp)] at hstream
  refine ⟨?_, hptr, hstream, fun a => hwritten, hother⟩
  rw [happ.res, hres, length_packedBits]
  omega

theorem bytesOf_packedBits {s : State} (hres : s.e.bw.res = 0) :
    bytesOf s.e.bw (packedBits s).length = encBpf s / 8 := by
  rw [bytesOf, hres, length_packedBits, Nat.zero_add]

/-- Settles O54: the payload is written at the cursor, or passes the capacity. -/
theorem packWritesTheFrameBitForBit : Obligations.PackWritesTheFrameBitForBit := by
  intro s hres h8
  obtain ⟨hres', hptr, hstream, -, hother⟩ := putBits_packedBits hres h8
  refine ⟨fun hpos hfull => exec_pack_fault ?_, fun hroom => ⟨packedBits s, _, _, exec_pack_ok ?_,
    length_packedBits s, fun p hp => lget_fitFrame _ hp, hstream, hres', hptr, hother⟩⟩
  · rw [bytesOf_packedBits hres, roomFor_iff]
    omega
  · rw [bytesOf_packedBits hres, roomFor_iff]
    exact .inr hroom

/-! ## The bits of one vector -/

/-- The composite index of `n` bins as a sum of digits, the first most significant (30_encoding.md R115). -/
theorem composite_eq_sum (base : Nat) (f : Nat → Nat) (n : Nat) :
    composite base ((List.range n).map f) =
      ((List.range n).map fun j => f j * base ^ (n - 1 - j)).sum := by
  induction n with
  | zero => rfl
  | succ n ih =>
    have hshift : ((List.range n).map fun j => f j * base ^ (n + 1 - 1 - j)) =
        (List.range n).map fun j => f j * base ^ (n - 1 - j) * base := by
      refine List.map_congr_left fun j hj => ?_
      have hj : j < n := List.mem_range.mp hj
      rw [Nat.mul_assoc, ← Nat.pow_succ]
      congr 2
      omega
    rw [List.range_succ, List.map_append, List.map_singleton, composite_append, ih, List.map_append,
      List.sum_append, hshift, List.sum_map_mul_right]
    simp

/-- One item for each element that passes a test. -/
theorem flatten_map_ite {α β : Type} (p : α → Bool) (f : α → β) (l : List α) :
    (l.map fun x => if p x = true then [f x] else []).flatten = (l.filter p).map f := by
  induction l with
  | nil => rfl
  | cons x l ih =>
    rw [List.map_cons, List.flatten_cons, ih]
    cases hx : p x <;> simp [hx]

section
variable (b : Build) (coef : SigReg 640) (row c : Nat)

/-- The bin of the coefficient at a position, before the clamp to `KMAX` (R322, R327). -/
def binAt (pos : Nat) : Nat :=
  match b.backend with
  | .fixed => binFixed b.rom c row (vget coef.fx pos)
  | .float => binFloat b.rom c row (vget coef.fl pos)

/-- The sign bit of the coefficient at a position: 1 for a positive one (R322). -/
def signAt (pos : Nat) : Bool :=
  match b.backend with
  | .fixed => decide ((vget coef.fx pos).toInt > 0)
  | .float => Config.fLt (Config.fOfInt 0) (vget coef.fl pos)

/-- A coefficient is coded as its clamped bin, and its sign where the bin is not 0. -/
theorem quantElem_eq (pos : Nat) :
    quantElem b coef row c pos =
      (min (binAt b coef row c pos) (vget b.rom.kmax c),
        if (binAt b coef row c pos != 0) = true then [signAt b coef pos] else []) := by
  simp only [quantElem, binAt, signAt, bne_iff_ne]
  cases b.backend <;> rfl

/-- The composite index of the vector at a position (R322, R325). -/
def indexAt (start : Nat) : Nat :=
  composite (vget b.rom.kmax c + 1)
    ((List.range (vget b.rom.vdim c)).map fun j =>
      min (binAt b coef row c (start + j)) (vget b.rom.kmax c))

/-- The sign bits of the vector at a position. -/
def signsAt (start : Nat) : List Bool :=
  ((List.range (vget b.rom.vdim c)).filter fun j => binAt b coef row c (start + j) != 0).map fun j =>
    signAt b coef (start + j)

/-- A vector is its code and then its sign bits (R322). -/
theorem vectorBits_eq (start : Nat) :
    vectorBits b coef row c start =
      vqCodeBits b.rom c (indexAt b coef row c start) ++ signsAt b coef row c start := by
  simp only [vectorBits, quantElem_eq, List.map_map, indexAt, signsAt]
  congr 1
  exact flatten_map_ite (fun j => binAt b coef row c (start + j) != 0)
    (fun j => signAt b coef (start + j)) _

/-- Clamped bins have a composite index of the category (30_encoding.md R115). -/
theorem indexAt_lt (start : Nat) : indexAt b coef row c start < indexCount b.rom c := by
  have h : ∀ k ∈ (List.range (vget b.rom.vdim c)).map fun j =>
      min (binAt b coef row c (start + j)) (vget b.rom.kmax c), k < vget b.rom.kmax c + 1 := by
    intro k hk
    obtain ⟨j, -, rfl⟩ := List.mem_map.mp hk
    omega
  simpa [indexAt, indexCount] using composite_lt h

theorem length_signsAt_le (start : Nat) : (signsAt b coef row c start).length ≤ vget b.rom.vdim c := by
  rw [signsAt, List.length_map]
  exact (List.length_filter_le _ _).trans (Nat.le_of_eq List.length_range)

/-- A vector of a conforming ROM has at most 32 bits (10_state.md R51). -/
theorem length_vectorBits_le {b : Build} {c : Nat} (hrom : vectorCodeWf b.rom) (hc : c < 7)
    (start : Nat) : (vectorBits b coef row c start).length ≤ 32 := by
  obtain ⟨-, hcodes⟩ := hrom c hc
  obtain ⟨-, hlen, -⟩ := hcodes _ (indexAt_lt b coef row c start)
  have hsigns := length_signsAt_le b coef row c start
  rw [vectorBits_eq, List.length_append, vqCodeBits, length_bitsOf]
  omega

/-- A region of a conforming ROM has at most 640 bits: 20 vectors or fewer (R323). -/
theorem length_regionBits_le {b : Build} {c : Nat} (hcat : categoryWf b.rom) (hrom : vectorCodeWf b.rom)
    (hc : c ≤ 7) (idxq : Nat → Nat) (r : Nat) : (regionBits b coef idxq r c).length ≤ 640 := by
  rw [regionBits]
  split
  next => exact Nat.zero_le _
  next h7 =>
    have hlt : c < 7 := by omega
    obtain ⟨hdim, -, -⟩ := hcat
    have h20 := hdim c hlt
    have hvec : vget b.rom.nvec c ≤ 20 :=
      Nat.le_of_dvd (by omega) ⟨vget b.rom.vdim c, by rw [Nat.mul_comm]; exact h20.symm⟩
    rw [List.length_flatMap]
    calc _ ≤ ((List.range (vget b.rom.nvec c)).map fun _ => 32).sum :=
          List.sum_le_sum fun n _ => length_vectorBits_le coef (idxq r) hrom hlt _
      _ = vget b.rom.nvec c * 32 := by simp
      _ ≤ 640 := by omega

end

/-! ## `VQ_ENC` -/

theorem regionBits_seven (b : Build) (coef : SigReg 640) (idxq : Nat → Nat) (r : Nat) :
    regionBits b coef idxq r 7 = [] := rfl

theorem regionBits_below {c : Nat} (hc : c < 7) (b : Build) (coef : SigReg 640) (idxq : Nat → Nat)
    (r : Nat) :
    regionBits b coef idxq r c = (List.range (vget b.rom.nvec c)).flatMap fun n =>
      vectorBits b coef (idxq r) c (20 * r + n * vget b.rom.vdim c) := by
  rw [regionBits, if_neg (by omega)]

/-- Settles O49: one vector after the other, its index as the sum of its digits. -/
theorem vqEncWritesOneBoundedString : Obligations.VqEncWritesOneBoundedString := by
  intro s
  refine ⟨regionBits s.build s.w.coef (fun q => (vget s.w.idxq q).val) s.seq.region.val
      (vget s.w.cat s.seq.region.val).val, rfl, fun hcat hrom => ?_, fun h7 => ?_, rfl, fun hc => ?_⟩
  · exact length_regionBits_le _ hcat hrom (by omega) _ _
  · rw [h7, regionBits_seven]
  · intro r c row rom dim kmax x y quantum scaled bin positive index signs
    have hbin : bin = binAt s.build s.w.coef row c := by
      funext p
      simp only [bin, binAt]
      cases s.build.backend <;> rfl
    have hsign : positive = signAt s.build s.w.coef := by
      funext p
      simp only [positive, signAt]
      cases s.build.backend <;> rfl
    have hindex (p : Nat) : index p = indexAt s.build s.w.coef row c p := by
      rw [indexAt, composite_eq_sum, ← hbin]
    have hsigns (p : Nat) : signs p = signsAt s.build s.w.coef row c p := by
      rw [signsAt, ← hbin, ← hsign]
    have hvector (p : Nat) : vectorBits s.build s.w.coef row c p =
        bitsOf (lget (vget rom.vqCode c) (index p)) (lget (vget rom.vqLen c) (index p)) ++ signs p := by
      rw [vectorBits_eq, vqCodeBits, hindex, hsigns]
    rw [regionBits_below hc]
    exact List.flatMap_congr fun k _ => hvector _

end Sys2Proof.Machine
end

section
/-! PROOF. The reader inside a frame as a plain bit string (Machine/Wire.lean): a guarded read takes bits off
the string's head, a tree walk takes one code off, and where the string ends first nothing is left
(41_bitstream.md R190; 30_encoding.md R116). -/

namespace Sys2Proof.Machine

/-! ## Bit strings as numbers -/

theorem natOfBits_append_singleton (bits : List Bool) (x : Bool) :
    natOfBits (bits ++ [x]) = 2 * natOfBits bits + x.toNat := by simp [natOfBits]

/-- A number's low bits are the number modulo a power of two. -/
theorem natOfBits_bitsOf (v n : Nat) : natOfBits (bitsOf v n) = v % 2 ^ n := by
  induction n generalizing v with
  | zero => simp [bitsOf, natOfBits, Nat.mod_one]
  | succ n ih =>
    have hbit : (v.testBit 0).toNat = v % 2 := by
      rw [Nat.testBit_zero]
      rcases Nat.mod_two_eq_zero_or_one v with h | h <;> simp [h]
    rw [bitsOf_add, bitsOf_one, natOfBits_append_singleton, ih, hbit, Nat.pow_one, Nat.pow_succ,
      Nat.mul_comm (2 ^ n), Nat.mod_mul, Nat.add_comm]

/-- The fold over the integers that reads a bit string as a number, most significant bit first (R109). -/
theorem natOfBits_eq_foldl (bits : List Bool) :
    (natOfBits bits : Int) = bits.foldl (fun v b => 2 * v + if b then 1 else 0) 0 := by
  refine (List.foldl_hom (fun v : Nat => (v : Int)) fun v b => ?_).symm
  cases b <;> simp

/-! ## Walks over a string -/

/-- A code is found in whatever follows it (10_state.md R53). -/
theorem walkString_append {tree : Nat → TreeNode} {node : Nat} {bits rest : List Bool} {symbol : Nat}
    (h : walkString tree node bits = some (symbol, rest)) (more : List Bool) :
    walkString tree node (bits ++ more) = some (symbol, rest ++ more) := by
  induction bits generalizing node with
  | nil => cases h
  | cons b bits ih =>
    simp only [List.cons_append, walkString] at h ⊢
    split at h
    next hleaf => cases h; rw [if_pos hleaf]
    next hnode => rw [if_neg hnode, ih h]

theorem walkString_of_walkBits {tree : Nat → TreeNode} {node : Nat} {bits : List Bool} {symbol : Nat}
    (h : walkBits tree node bits = some symbol) : walkString tree node bits = some (symbol, []) := by
  unfold walkBits at h
  split at h
  next hw => cases h; exact hw
  next => cases h

/-- A walk of a well-formed tree ends at one of its symbols (R52). -/
theorem walkString_lt {tree : Nat → TreeNode} {nodes symbols : Nat} (hwf : treeWf tree nodes symbols)
    {node : Nat} (hnode : node < nodes) {bits rest : List Bool} {symbol : Nat}
    (h : walkString tree node bits = some (symbol, rest)) : symbol < symbols := by
  induction bits generalizing node with
  | nil => cases h
  | cons b bits ih =>
    have hentry := hwf.2 node hnode b
    simp only [walkString] at h
    split at h
    next hleaf =>
      cases h
      rwa [if_neg (by omega)] at hentry
    next hnode =>
      rw [if_pos (by omega)] at hentry
      exact ih (by omega) h

/-- A code takes at least one bit off. -/
theorem length_walkString_rest {tree : Nat → TreeNode} {node : Nat} {bits rest : List Bool} {symbol : Nat}
    (h : walkString tree node bits = some (symbol, rest)) : rest.length < bits.length := by
  induction bits generalizing node with
  | nil => cases h
  | cons b bits ih =>
    simp only [walkString] at h
    split at h
    next => cases h; exact Nat.lt_succ_self _
    next => exact (ih h).trans (Nat.lt_succ_self _)

/-! ## The reader as a string -/

/-- The reader stands in the frame and has these bits of it left. -/
structure LeftAt (s : State) (base n : Nat) (br : BitReader) (bits : List Bool) : Prop where
  inside : readerAt s.bs br base n
  left : leftBits s.bs br base n = bits

theorem LeftAt.of_readerAt {s : State} {base n : Nat} {br : BitReader} (h : readerAt s.bs br base n) :
    LeftAt s base n br (leftBits s.bs br base n) := ⟨h, rfl⟩

section
variable {s : State} {base n : Nat} {br : BitReader} {bits : List Bool}

theorem LeftAt.rem (h : LeftAt s base n br bits) : br.rem = bits.length := by
  have h0 := h.inside.1
  rw [← h.left, leftBits, List.length_map, length_streamBits]
  omega

/-- The string's head is the frame's next bit. -/
theorem leftBits_succ {m : List Host.Cell} {br br' : BitReader} {b : Bool} (hin : readerAt m br base n)
    (hpos : 0 < br.rem) (hrem : br'.rem = br.rem - 1)
    (hb : some b = streamBit m (8 * base + (n - br.rem.toNat))) :
    leftBits m br base n = b :: leftBits m br' base n := by
  have hle := hin.2.1
  have hcount : br.rem.toNat = 1 + br'.rem.toNat := by omega
  have hnext : 8 * base + (n - br.rem.toNat) + 1 = 8 * base + (n - br'.rem.toNat) := by omega
  have hfirst : streamBits m (8 * base + (n - br.rem.toNat)) 1 = [some b] := by rw [hb]; rfl
  have hsplit := streamBits_add m (8 * base + (n - br.rem.toNat)) 1 br'.rem.toNat
  rw [← hcount, hfirst, hnext] at hsplit
  rw [leftBits, leftBits, hsplit]
  rfl

/-- `GETBIT` takes the head off (41_bitstream.md R190). -/
theorem getBit_cons {b : Bool} (hf : frameReady s base n) (h : LeftAt s base n br (b :: bits)) :
    ∃ br', getBit (readBs s) br = .ok (some b, br') ∧ LeftAt s base n br' bits := by
  have hpos : 0 < br.rem := by rw [h.rem]; simp
  obtain ⟨x, br', hget, hin, hrem, hx⟩ := getBit_in_frame hf h.inside hpos
  have hcons := leftBits_succ h.inside hpos hrem hx
  rw [h.left] at hcons
  obtain ⟨rfl, hrest⟩ := List.cons.inj hcons
  exact ⟨br', hget, hin, hrest.symm⟩

theorem getBit_nil (h : LeftAt s base n br []) : getBit (readBs s) br = .ok (none, br) :=
  getBit_exhausted (by rw [h.rem]; rfl)

/-- `GETBITS` takes as many bits off as it asks for (R190). -/
theorem getBits_whole (hf : frameReady s base n) {k : Nat} (h : LeftAt s base n br bits)
    (hk : k ≤ bits.length) :
    ∃ br', getBits (readBs s) k br = .ok (some (bits.take k), br') ∧
      LeftAt s base n br' (bits.drop k) := by
  induction k generalizing br bits with
  | zero => exact ⟨br, rfl, h⟩
  | succ k ih =>
    cases bits with
    | nil => cases hk
    | cons b bits =>
      obtain ⟨br1, h1, hl1⟩ := getBit_cons hf h
      obtain ⟨br2, h2, hl2⟩ := ih hl1 (Nat.le_of_succ_le_succ hk)
      exact ⟨br2, by rw [getBits, h1]; simp only [h2]; rfl, hl2⟩

/-- Where too few bits are left `GETBITS` uses them up and is `EXHAUSTED`. -/
theorem getBits_short (hf : frameReady s base n) {k : Nat} (h : LeftAt s base n br bits)
    (hk : bits.length < k) :
    ∃ br', getBits (readBs s) k br = .ok (none, br') ∧ LeftAt s base n br' [] := by
  induction k generalizing br bits with
  | zero => cases hk
  | succ k ih =>
    cases bits with
    | nil => exact ⟨br, by rw [getBits, getBit_nil h], h⟩
    | cons b bits =>
      obtain ⟨br1, h1, hl1⟩ := getBit_cons hf h
      obtain ⟨br2, h2, hl2⟩ := ih hl1 (Nat.lt_of_succ_lt_succ hk)
      exact ⟨br2, by rw [getBits, h1]; simp only [h2], hl2⟩

/-- A walk with passes for all bits left takes the code off that `walkString` finds (30_encoding.md R116). -/
theorem walkFrom_some (hf : frameReady s base n) {tree : Nat → TreeNode} {fuel node symbol : Nat}
    {rest : List Bool} (h : LeftAt s base n br bits) (hfuel : bits.length < fuel)
    (hw : walkString tree node bits = some (symbol, rest)) :
    ∃ br', walkFrom (readBs s) tree fuel node br = .ok (some symbol, br') ∧ LeftAt s base n br' rest := by
  induction bits generalizing fuel node br with
  | nil => cases hw
  | cons b bits ih =>
    obtain ⟨fuel, rfl⟩ : ∃ k, fuel = k + 1 := ⟨fuel - 1, by omega⟩
    obtain ⟨br1, h1, hl1⟩ := getBit_cons hf h
    rw [walkFrom, h1]
    simp only [walkString] at hw
    dsimp only
    split at hw
    next hleaf => cases hw; rw [if_pos hleaf]; exact ⟨br1, rfl, hl1⟩
    next hnode => rw [if_neg hnode]; exact ih hl1 (Nat.lt_of_succ_lt_succ hfuel) hw

/-- Where the string ends inside the code the walk is `EXHAUSTED` and nothing is left. -/
theorem walkFrom_none (hf : frameReady s base n) {tree : Nat → TreeNode} {fuel node : Nat}
    (h : LeftAt s base n br bits) (hfuel : bits.length < fuel) (hw : walkString tree node bits = none) :
    ∃ br', walkFrom (readBs s) tree fuel node br = .ok (none, br') ∧ LeftAt s base n br' [] := by
  induction bits generalizing fuel node br with
  | nil =>
    obtain ⟨fuel, rfl⟩ : ∃ k, fuel = k + 1 := ⟨fuel - 1, by omega⟩
    exact ⟨br, by rw [walkFrom, getBit_nil h], h⟩
  | cons b bits ih =>
    obtain ⟨fuel, rfl⟩ : ∃ k, fuel = k + 1 := ⟨fuel - 1, by omega⟩
    obtain ⟨br1, h1, hl1⟩ := getBit_cons hf h
    rw [walkFrom, h1]
    simp only [walkString] at hw
    dsimp only
    split at hw
    next => cases hw
    next hnode => rw [if_neg hnode]; exact ih hl1 (Nat.lt_of_succ_lt_succ hfuel) hw

theorem LeftAt.walkFuel (h : LeftAt s base n br bits) : bits.length < br.rem.toNat + 1 := by
  rw [h.rem]
  exact Nat.lt_succ_self _

theorem walkTree_some (hf : frameReady s base n) {tree : Nat → TreeNode} {symbol : Nat}
    {rest : List Bool} (h : LeftAt s base n br bits)
    (hw : walkString tree 0 bits = some (symbol, rest)) :
    ∃ br', walkTree (readBs s) tree br = .ok (some symbol, br') ∧ LeftAt s base n br' rest :=
  walkFrom_some hf h h.walkFuel hw

theorem walkTree_none (hf : frameReady s base n) {tree : Nat → TreeNode} (h : LeftAt s base n br bits)
    (hw : walkString tree 0 bits = none) :
    ∃ br', walkTree (readBs s) tree br = .ok (none, br') ∧ LeftAt s base n br' [] :=
  walkFrom_none hf h h.walkFuel hw

end

end Sys2Proof.Machine
end

section
/-! PROOF. `PWR_DEC` reads the header from the bits left in the frame (44_region_power.md R283 to R286), and what
`PWR_ENC` and `PACK` have written there is what it reads (R280, 47_frame_commands.md R374). -/

namespace Sys2Proof.Machine

/-! ## The envelope steps on the wire -/

/-- A whole envelope has a step for each region. -/
theorem length_wireSteps {rom : Rom} {k r : Nat} {bits rest : List Bool}
    (h : (wireSteps rom k r bits).2 = some rest) : (wireSteps rom k r bits).1.length = k := by
  induction k generalizing r bits with
  | zero => rfl
  | succ k ih =>
    simp only [wireSteps] at h ⊢
    split at h
    next => cases h
    next hw => simp only [List.length_cons, ih h]

theorem length_wireSteps_rest {rom : Rom} {k r : Nat} {bits rest : List Bool}
    (h : (wireSteps rom k r bits).2 = some rest) : rest.length ≤ bits.length := by
  induction k generalizing r bits with
  | zero => cases h; exact Nat.le_refl _
  | succ k ih =>
    simp only [wireSteps] at h
    split at h
    next => cases h
    next hw => exact (ih h).trans (Nat.le_of_lt (length_walkString_rest hw))

/-- Well-formed trees have the 24 steps of R50. -/
theorem wireSteps_lt {rom : Rom} {k r : Nat} (hrom : ∀ q, r ≤ q → q < r + k → treeWf (drpTreeAt rom q) 23 24)
    (bits : List Bool) : ∀ j ∈ (wireSteps rom k r bits).1, j < 24 := by
  induction k generalizing r bits with
  | zero => exact nofun
  | succ k ih =>
    simp only [wireSteps]
    split
    next => exact nofun
    next j rest hw =>
      intro x hx
      rcases List.mem_cons.mp hx with rfl | hx
      · exact walkString_lt (hrom r (Nat.le_refl _) (by omega)) (by omega) hw
      · exact ih (fun q h1 h2 => hrom q (by omega) (by omega)) rest x hx

/-- The codes of an envelope are read as its symbols, whatever follows them (R53). -/
theorem wireSteps_codes {rom : Rom} {sym : Nat → Nat} {k r : Nat}
    (h : ∀ q, r ≤ q → q < r + k → walkBits (drpTreeAt rom q) 0 (drpCodeBits rom q (sym q)) = some (sym q))
    (more : List Bool) :
    wireSteps rom k r (((List.range k).flatMap fun i => drpCodeBits rom (r + i) (sym (r + i))) ++ more) =
      ((List.range k).map fun i => sym (r + i), some more) := by
  induction k generalizing r with
  | zero => rfl
  | succ k ih =>
    have hbits : ((List.range (k + 1)).flatMap fun i => drpCodeBits rom (r + i) (sym (r + i))) =
        drpCodeBits rom r (sym r) ++
          (List.range k).flatMap fun i => drpCodeBits rom (r + 1 + i) (sym (r + 1 + i)) := by
      simp [List.range_succ_eq_map, List.flatMap_map, Nat.add_assoc, Nat.add_comm 1]
    have hsyms : (List.range (k + 1)).map (fun i => sym (r + i)) =
        sym r :: (List.range k).map fun i => sym (r + 1 + i) := by
      simp [List.range_succ_eq_map, Nat.add_assoc, Nat.add_comm 1, Function.comp_def]
    have hfirst := walkString_append (walkString_of_walkBits (h r (Nat.le_refl _) (by omega)))
    have hrest := ih (r := r + 1) fun q h1 h2 => h q (by omega) (by omega)
    rw [hbits, hsyms, List.append_assoc, wireSteps, hfirst]
    simp only [List.nil_append, hrest]

/-! ## The indices -/

/-- The power indices after a header with first field `p0` and these steps (R283): each index from the one
before, those beyond the steps kept. -/
structure IndicesRead (old : Vector I16 28) (p0 : Nat) (steps : List Nat) (abs : Vector I16 28) :
    Prop where
  first : (vget abs 0).toInt = (p0 : Int) - 9
  next : ∀ r < steps.length, vget abs (r + 1) = BitVec.ofInt 16 ((vget abs r).toInt + lget steps r - 12)
  kept : ∀ r, steps.length < r → vget abs r = vget old r

section
variable {old abs : Vector I16 28} {p0 : Nat} {steps : List Nat}

theorem IndicesRead.nil (h : p0 < 32) : IndicesRead old p0 [] (vset old 0 (toI16 (p0 - esfAdj))) where
  first := by
    rw [vget_vset_self _ _ (by omega), esfAdj, toI16_toInt (by omega) (by omega)]
  next := nofun
  kept := fun r hr => vget_vset_ne _ _ (Nat.ne_of_gt hr)

/-- One more step (R283). -/
theorem IndicesRead.snoc (h : IndicesRead old p0 steps abs) (hlen : steps.length + 1 < 28) (j : Nat) :
    IndicesRead old p0 (steps ++ [j])
      (vset abs (steps.length + 1) (toI16 ((vget abs steps.length).toInt + j + drpMin))) := by
  refine ⟨?_, fun r hr => ?_, fun r hr => ?_⟩
  · rw [vget_vset_ne _ _ (by omega)]
    exact h.first
  · rw [List.length_append, List.length_singleton] at hr
    rcases Nat.lt_succ_iff_lt_or_eq.mp hr with hlt | rfl
    · have hget : lget (steps ++ [j]) r = lget steps r := by
        rw [lget_of_lt _ (by simp; omega), lget_of_lt _ hlt, List.getElem_append_left hlt]
      rw [vget_vset_ne _ _ (by omega), vget_vset_ne _ _ (by omega), hget, h.next r hlt]
    · have hget : lget (steps ++ [j]) steps.length = j := by
        rw [lget_of_lt _ (by simp), List.getElem_concat_length rfl]
      rw [vget_vset_self _ _ hlen, vget_vset_ne _ _ (by omega), hget]
      rfl
  · rw [List.length_append, List.length_singleton] at hr
    rw [vget_vset_ne _ _ (by omega)]
    exact h.kept r (by omega)

/-- With steps below 24 no index leaves `int16`: an index moves by -12 to 11 a region (R278, R283). -/
theorem IndicesRead.range (h : IndicesRead old p0 steps abs) (hp0 : p0 < 32) (hlen : steps.length < 28)
    (hsteps : ∀ j ∈ steps, j < 24) {r : Nat} (hr : r ≤ steps.length) :
    -9 - 12 * (r : Int) ≤ (vget abs r).toInt ∧ (vget abs r).toInt ≤ 22 + 11 * (r : Int) := by
  induction r with
  | zero => rw [h.first]; omega
  | succ r ih =>
    obtain ⟨hlo, hhi⟩ := ih (by omega)
    have hj : lget steps r < 24 := by
      rw [lget_of_lt _ (by omega)]
      exact hsteps _ (List.getElem_mem _)
    have hnext : (vget abs (r + 1)).toInt = (vget abs r).toInt + lget steps r - 12 := by
      rw [h.next r (by omega)]
      exact toI16_toInt (by omega) (by omega)
    rw [hnext]
    omega

theorem IndicesRead.toInt_next (h : IndicesRead old p0 steps abs) (hp0 : p0 < 32)
    (hlen : steps.length < 28) (hsteps : ∀ j ∈ steps, j < 24) {r : Nat} (hr : r < steps.length) :
    (vget abs (r + 1)).toInt = (vget abs r).toInt + lget steps r - 12 ∧ lget steps r < 24 := by
  obtain ⟨hlo, hhi⟩ := h.range hp0 hlen hsteps (Nat.le_of_lt hr)
  have hj : lget steps r < 24 := by
    rw [lget_of_lt _ hr]
    exact hsteps _ (List.getElem_mem _)
  rw [h.next r hr]
  exact ⟨toI16_toInt (by omega) (by omega), hj⟩

theorem IndicesRead.first_range (h : IndicesRead old p0 steps abs) (hp0 : p0 < 32) :
    -9 ≤ (vget abs 0).toInt ∧ (vget abs 0).toInt ≤ 22 := by
  rw [h.first]
  omega

/-- An index is 12 below the one before it to 11 above (R278). -/
theorem IndicesRead.step_range (h : IndicesRead old p0 steps abs) (hp0 : p0 < 32)
    (hlen : steps.length < 28) (hsteps : ∀ j ∈ steps, j < 24) {r : Nat} (hr : r < steps.length) :
    -12 ≤ (vget abs (r + 1)).toInt - (vget abs r).toInt ∧
      (vget abs (r + 1)).toInt - (vget abs r).toInt ≤ 11 := by
  obtain ⟨hnext, hj⟩ := h.toInt_next hp0 hlen hsteps hr
  omega

end

/-! ## Reading the header -/

/-- The field `P0` has five bits (30_encoding.md R109). -/
theorem natOfBits_take_five {bits : List Bool} (h : 5 ≤ bits.length) : natOfBits (bits.take 5) < 32 := by
  have hlt := natOfBits_lt (bits.take 5)
  rwa [List.length_take, Nat.min_eq_left h] at hlt

section
variable {s : State} {base n : Nat} {br : BitReader} {bits : List Bool}

/-- The region loop reads the steps on the wire, and says whether they were all there (R283, R285). -/
theorem decodeDeltas_wire (hf : frameReady s base n) (rom : Rom) {old : Vector I16 28} {p0 : Nat} (k : Nat)
    {done : List Nat} {abs : Vector I16 28} (habs : IndicesRead old p0 done abs)
    (hlen : done.length + k < 28) (h : LeftAt s base n br bits) :
    let wire := wireSteps rom k (done.length + 1) bits
    ∃ abs' br', decodeDeltas (readBs s) rom k (done.length + 1) abs br = .ok (wire.2.isSome, abs', br') ∧
      LeftAt s base n br' (wire.2.getD []) ∧ IndicesRead old p0 (done ++ wire.1) abs' := by
  induction k generalizing done abs br bits with
  | zero => exact ⟨abs, br, rfl, h, by rw [wireSteps, List.append_nil]; exact habs⟩
  | succ k ih =>
    simp only [decodeDeltas, wireSteps]
    cases hw : walkString (drpTreeAt rom (done.length + 1)) 0 bits with
    | none =>
      obtain ⟨br1, h1, hl1⟩ := walkTree_none hf h hw
      rw [h1]
      exact ⟨abs, br1, rfl, hl1, by rw [List.append_nil]; exact habs⟩
    | some p =>
      obtain ⟨j, rest⟩ := p
      obtain ⟨br1, h1, hl1⟩ := walkTree_some hf h hw
      rw [h1]
      have hnext := habs.snoc (by omega) j
      have hcount : (done ++ [j]).length = done.length + 1 := by simp
      have hall := ih hnext (by omega) hl1
      rw [hcount] at hall
      simpa using hall

/-- A header whose first field is not all there (R285). -/
theorem readHeader_short (hf : frameReady s base n) (rom : Rom) (m : Mode) (w : WorkRegs)
    (h : LeftAt s base n br bits) (hlen : bits.length < 5) :
    ∃ br', readHeader (readBs s) rom m w br = .ok (headerExhausted w w.abs, br') ∧
      LeftAt s base n br' [] := by
  obtain ⟨br1, h1, hl1⟩ := getBits_short hf h hlen
  exact ⟨br1, by rw [readHeader, h1], hl1⟩

/-- The fields `P0` and `DRP` (R283). -/
theorem readIndices (hf : frameReady s base n) (rom : Rom) (m : Mode) (w : WorkRegs)
    (h : LeftAt s base n br bits) (hlen : 5 ≤ bits.length) :
    let wire := wireSteps rom (m.nreg - 1) 1 (bits.drop 5)
    ∃ abs br1 br2, getBits (readBs s) 5 br = .ok (some (bits.take 5), br1) ∧
      decodeDeltas (readBs s) rom (m.nreg - 1) 1
        (vset w.abs 0 (toI16 (natOfBits (bits.take 5) - esfAdj))) br1 = .ok (wire.2.isSome, abs, br2) ∧
      LeftAt s base n br2 (wire.2.getD []) ∧
      IndicesRead w.abs (natOfBits (bits.take 5)) wire.1 abs := by
  obtain ⟨br1, h1, hl1⟩ := getBits_whole hf h hlen
  have hreg := nreg_le m
  obtain ⟨abs, br2, h2, hl2, habs⟩ := decodeDeltas_wire hf rom (m.nreg - 1)
    (IndicesRead.nil (natOfBits_take_five hlen))
    (by rw [List.length_nil]; omega) hl1
  exact ⟨abs, br1, br2, h1, h2, hl2, habs⟩

/-- A whole header (R283). -/
theorem readHeader_whole (hf : frameReady s base n) (rom : Rom) (m : Mode) (w : WorkRegs)
    (h : LeftAt s base n br bits) (hlen : 5 ≤ bits.length) {rest : List Bool}
    (hsteps : (wireSteps rom (m.nreg - 1) 1 (bits.drop 5)).2 = some rest) (hcc : m.ccbits ≤ rest.length) :
    ∃ abs br', readHeader (readBs s) rom m w br =
        .ok ({ w with abs := abs, catctl := Fin.ofNat 32 (natOfBits (rest.take m.ccbits)) }, br') ∧
      LeftAt s base n br' (rest.drop m.ccbits) ∧
      IndicesRead w.abs (natOfBits (bits.take 5)) (wireSteps rom (m.nreg - 1) 1 (bits.drop 5)).1 abs := by
  obtain ⟨abs, br1, br2, h1, h2, hl2, habs⟩ := readIndices hf rom m w h hlen
  rw [hsteps] at h2 hl2
  obtain ⟨br3, h3, hl3⟩ := getBits_whole hf hl2 hcc
  refine ⟨abs, br3, ?_, hl3, habs⟩
  rw [readHeader, h1]
  dsimp only
  rw [h2]
  dsimp only [Option.isSome]
  rw [h3]
  rfl

/-- A header that the bits left do not hold (R285). -/
theorem readHeader_exhausted (hf : frameReady s base n) (rom : Rom) (m : Mode) (w : WorkRegs)
    (h : LeftAt s base n br bits) (hlen : 5 ≤ bits.length)
    (hend : (wireSteps rom (m.nreg - 1) 1 (bits.drop 5)).2 = none ∨
      ∃ rest, (wireSteps rom (m.nreg - 1) 1 (bits.drop 5)).2 = some rest ∧ rest.length < m.ccbits) :
    ∃ abs br', readHeader (readBs s) rom m w br = .ok (headerExhausted w abs, br') ∧
      LeftAt s base n br' [] ∧
      IndicesRead w.abs (natOfBits (bits.take 5)) (wireSteps rom (m.nreg - 1) 1 (bits.drop 5)).1 abs := by
  obtain ⟨abs, br1, br2, h1, h2, hl2, habs⟩ := readIndices hf rom m w h hlen
  rcases hend with hnone | ⟨rest, hsome, hshort⟩
  · rw [hnone] at h2 hl2
    refine ⟨abs, br2, ?_, hl2, habs⟩
    rw [readHeader, h1]
    dsimp only
    rw [h2]
    rfl
  · rw [hsome] at h2 hl2
    obtain ⟨br3, h3, hl3⟩ := getBits_short hf hl2 hshort
    refine ⟨abs, br3, ?_, hl3, habs⟩
    rw [readHeader, h1]
    dsimp only
    rw [h2]
    dsimp only [Option.isSome]
    rw [h3]

theorem exec_pwrDec_of_readHeader {w : WorkRegs}
    (h : readHeader (readBs s) s.build.rom s.d.mode s.w s.d.br = .ok (w, br)) :
    exec .pwrDec s = .next ((s.setW w).setD { s.d with br := br }) := by
  show execPwrDec s = _
  rw [execPwrDec, h]

end

/-- A control value read from `CCBITS` bits is below `NPOSS` (30_encoding.md R111). -/
theorem controlValue {m : Mode} {bits : List Bool} (h : bits.length = m.ccbits) :
    (Fin.ofNat 32 (natOfBits bits)).val = natOfBits bits ∧ natOfBits bits < m.nposs := by
  have hlt := natOfBits_lt bits
  rw [h] at hlt
  have hle : 2 ^ m.ccbits ≤ 32 := nposs_le m
  exact ⟨Nat.mod_eq_of_lt (hlt.trans_le hle), hlt⟩

/-- A header that is not whole ends inside the steps or inside the control value. -/
theorem ends_of_not_whole {rest : Option (List Bool)} {k : Nat}
    (h : ¬ ∃ l, rest = some l ∧ k ≤ l.length) : rest = none ∨ ∃ l, rest = some l ∧ l.length < k := by
  cases rest with
  | none => exact .inl rfl
  | some l => exact .inr ⟨l, rfl, Nat.not_le.mp fun hk => h ⟨l, rfl, hk⟩⟩

/-- Settles O43: the bits end inside the first field, the header is whole, or they end inside a later field. -/
theorem pwrDecReadsTheHeaderOrOverruns : Obligations.PwrDecReadsTheHeaderOrOverruns := by
  intro s base n hf hin rom nreg ccbits number bits steps
  have hleft : LeftAt s base n s.d.br bits := .of_readerAt hin
  have hrem := hleft.rem
  have hnumber (l : List Bool) : number l = natOfBits l := (natOfBits_eq_foldl l).symm
  simp only [hnumber]
  by_cases hlen : bits.length < 5
  · obtain ⟨br, hread, hl⟩ := readHeader_short hf rom s.d.mode s.w hleft hlen
    have hzero : br.rem = 0 := hl.rem
    exact ⟨s.w.abs, s.w.catctl, s.w.ferr ||| 2#4, br, exec_pwrDec_of_readHeader hread, hl.inside, by omega,
      fun _ => rfl, fun h => by omega, fun _ h => by omega, fun _ => ⟨rfl, rfl, hzero⟩⟩
  have hlen : 5 ≤ bits.length := Nat.not_lt.mp hlen
  by_cases hwhole : ∃ rest, steps.2 = some rest ∧ ccbits ≤ rest.length
  · obtain ⟨rest, hsteps, hcc⟩ := hwhole
    obtain ⟨abs, br, hread, hl, habs⟩ := readHeader_whole hf rom s.d.mode s.w hleft hlen hsteps hcc
    have hrest : br.rem = (rest.length : Int) - ccbits := by
      rw [hl.rem, List.length_drop]
      omega
    have hle := length_wireSteps_rest hsteps
    rw [List.length_drop] at hle
    have hcount : steps.1.length = nreg - 1 := length_wireSteps hsteps
    have hreg : nreg ≤ 28 := nreg_le _
    obtain ⟨hval, hpos⟩ := controlValue (m := s.d.mode) (bits := rest.take ccbits)
      (List.length_take_of_le hcc)
    have hp0 := natOfBits_take_five hlen
    obtain ⟨hlo, hhi⟩ := habs.first_range hp0
    refine ⟨abs, Fin.ofNat 32 (natOfBits (rest.take ccbits)), s.w.ferr, br,
      exec_pwrDec_of_readHeader hread, hl.inside, by omega, fun h => by omega,
      fun _ => ⟨habs.first, habs.next, habs.kept⟩, fun rest' _ hrest' _ => ?_, fun h => ?_⟩
    · obtain rfl : rest = rest' := Option.some.inj (hsteps.symm.trans hrest')
      refine ⟨rfl, congrArg Nat.cast hval, hval.trans_lt hpos, hrest, hlo, hhi, fun hrom r hr => ?_⟩
      exact habs.step_range hp0 (show steps.1.length < 28 by omega)
        (wireSteps_lt (fun q h1 h2 => hrom q h1 (by omega)) _) (show r < steps.1.length by omega)
    · rcases h with h | h | ⟨rest', hrest', h⟩
      · omega
      · rw [hsteps] at h; cases h
      · obtain rfl : rest = rest' := Option.some.inj (hsteps.symm.trans hrest')
        omega
  · obtain ⟨abs, br, hread, hl, habs⟩ :=
      readHeader_exhausted hf rom s.d.mode s.w hleft hlen (ends_of_not_whole hwhole)
    have hzero : br.rem = 0 := hl.rem
    exact ⟨abs, s.w.catctl, s.w.ferr ||| 2#4, br, exec_pwrDec_of_readHeader hread, hl.inside, by omega,
      fun h => by omega, fun _ => ⟨habs.first, habs.next, habs.kept⟩,
      fun rest _ hrest h => absurd ⟨rest, hrest, h⟩ hwhole, fun _ => ⟨rfl, rfl, hzero⟩⟩

end Sys2Proof.Machine
end

section
/-! PROOF. The header that `PWR_ENC` and `PACK` write is the one `PWR_DEC` reads (44_region_power.md R280, R286,
47_frame_commands.md R374). -/

namespace Sys2Proof.Machine

/-! ## The header in the frame -/

/-- A header that fits is not cut (R374). -/
theorem fitFrame_append {header : List Bool} {n : Nat} (h : header.length ≤ n) (body : List Bool) :
    fitFrame (header ++ body) n = header ++ fitFrame body (n - header.length) := by
  simp only [fitFrame, List.length_append]
  by_cases hcut : body.length > n - header.length
  · rw [if_pos (by omega), if_pos hcut, List.take_append, List.take_of_length_le h]
  · rw [if_neg (by omega), if_neg hcut, List.append_assoc, Nat.sub_add_eq]

theorem length_envelopeBits (rom : Rom) (sym : Nat → Nat) (n : Nat) :
    (envelopeBits rom sym n).length = envelopeLength rom sym n := by
  simp [envelopeBits, envelopeLength, drpCodeBits, List.length_flatMap]

theorem five_le_envelopeLength (rom : Rom) (sym : Nat → Nat) (n : Nat) : 5 ≤ envelopeLength rom sym n :=
  Nat.le_add_right _ _

/-- The envelope string begins with region 0's symbol in five bits (R280). -/
theorem take_envelopeBits (rom : Rom) (sym : Nat → Nat) (n : Nat) (more : List Bool) :
    (envelopeBits rom sym n ++ more).take 5 = bitsOf (sym 0) 5 := by
  rw [envelopeBits, List.append_assoc, List.take_left' (length_bitsOf _ _)]

/-- The rest of it is read as the later regions' symbols (R280, R283). -/
theorem wireSteps_envelopeBits {rom : Rom} {sym : Nat → Nat} {n : Nat} (hrom : envelopeCodeWf rom)
    (hn : n ≤ 28) (hsym : ∀ r, 1 ≤ r → r < n → sym r < 24) (more : List Bool) :
    wireSteps rom (n - 1) 1 ((envelopeBits rom sym n ++ more).drop 5) =
      ((List.range (n - 1)).map fun i => sym (1 + i), some more) := by
  rw [envelopeBits, List.append_assoc, List.drop_left' (length_bitsOf _ _)]
  simp only [Nat.add_comm _ 1]
  refine wireSteps_codes (fun q h1 h2 => ?_) more
  obtain ⟨-, hcodes⟩ := hrom q h1 (by omega)
  obtain ⟨-, -, -, hwalk⟩ := hcodes (sym q) (hsym q h1 (by omega))
  exact hwalk

/-! ## From the packer to the reader -/

/-- A reader at the start of a frame has the whole frame left (41_bitstream.md R189). -/
theorem leftAt_start {s : State} {base n : Nat} {bits : List Bool}
    (h : streamBits s.bs (8 * base) n = bits.map some) :
    LeftAt s base n { acc := 0#32, res := 0, ptr := base, rem := n } bits where
  inside := ⟨by simp, by simp, by simp, by simp, by simp [heldBits, bitsOf, streamBits]⟩
  left := by
    simp only [leftBits, Int.toNat_natCast, Nat.sub_self, Nat.add_zero, h, List.map_map]
    simp [Function.comp_def]

/-- What `PACK` has written is a readable frame of its payload (R374). -/
theorem exec_pack_frame {s t : State} (h : exec .pack s = .next t) (hres : s.e.bw.res = 0)
    (hpos : 0 < encBpf s) (h8 : encBpf s % 8 = 0) :
    ∃ p, t = (s.setW { s.w with framebits := packedBits s }).afterPut p ∧ p.1.res = 0 ∧
      frameReady t s.e.bw.ptr (encBpf s) ∧
      streamBits t.bs (8 * s.e.bw.ptr) (encBpf s) = (packedBits s).map some := by
  by_cases hroom : roomFor s (bytesOf s.e.bw (packedBits s).length) = true
  · obtain ⟨hres', -, hstream, hwritten, -⟩ := putBits_packedBits hres h8
    obtain rfl := Host.Outcome.next.inj ((exec_pack_ok hroom).symm.trans h)
    rw [bytesOf_packedBits hres, roomFor_iff] at hroom
    have hcap : s.e.bw.ptr + encBpf s / 8 ≤ bsCap s := hroom.resolve_left (by omega)
    exact ⟨_, rfl, hres', ⟨h8, hwritten, hcap⟩, hstream⟩
  · rw [exec_pack_fault hroom] at h
    cases h

/-- After `BS_WINIT`, `PACK`, `BS_FLUSH` and `BS_RINIT` at one rate the reader has the payload left, and `W`
and the build are as they were but for `W.FRAMEBITS`. -/
theorem packed_frame_left {s t : State}
    (h : runAll [exec .bsWinit, exec .pack, exec .bsFlush, exec .bsRinit] s = .next t)
    (hrate : s.d.rate = s.e.rate) (hpos : 0 < encBpf s) (h8 : encBpf s % 8 = 0) :
    ∃ base, frameReady t base (encBpf s) ∧ LeftAt t base (encBpf s) t.d.br (packedBits s) ∧
      t.build = s.build ∧ t.d.mode = s.d.mode ∧ t.w = { s.w with framebits := packedBits s } := by
  obtain ⟨u, hu, h⟩ := thenDo_eq_next.mp h
  cases hu
  obtain ⟨v, hv, h⟩ := thenDo_eq_next.mp h
  obtain ⟨p, rfl, hres, hready, hstream⟩ := exec_pack_frame hv rfl hpos h8
  obtain ⟨x, hx, h⟩ := thenDo_eq_next.mp h
  rw [exec_bsFlush_nothing hres] at hx
  cases hx
  obtain ⟨y, hy, h⟩ := thenDo_eq_next.mp h
  cases hy
  cases h
  have hbypf : decBypf s = encBypf s := by rw [decBypf, encBypf, hrate]
  have hbpf : decBpf s = encBpf s := by rw [decBpf, encBpf, hrate]
  have hleft := leftAt_start hstream
  refine ⟨s.seq.frame * encBypf s, hready, ⟨?_, ?_⟩, rfl, rfl, rfl⟩
  · show readerAt p.2 ⟨0#32, 0, s.seq.frame * decBypf s, decBpf s⟩ _ _
    rw [hbypf, hbpf]
    exact hleft.inside
  · show leftBits p.2 ⟨0#32, 0, s.seq.frame * decBypf s, decBpf s⟩ _ _ = _
    rw [hbypf, hbpf]
    exact hleft.left

/-- The payload begins with the envelope and the control value where these fit (R374). -/
theorem packedBits_header {s : State} (h : s.w.env.length + s.e.mode.ccbits ≤ encBpf s) :
    ∃ more, packedBits s = s.w.env ++ (bitsOf s.w.catctl.val s.e.mode.ccbits ++ more) :=
  ⟨_, by rw [packedBits, frameFields, fitFrame_append (by simpa using h), List.append_assoc]⟩

/-- The header of a symbol list and a control value, read back (R283, R286). -/
theorem readHeader_envelope {s : State} {base n : Nat} {br : BitReader} {rom : Rom} {m : Mode}
    {sym : Nat → Nat} {cc : Nat} {more : List Bool} (hf : frameReady s base n)
    (hleft : LeftAt s base n br (envelopeBits rom sym m.nreg ++ (bitsOf cc m.ccbits ++ more)))
    (hrom : envelopeCodeWf rom) (hsym : ∀ r, 1 ≤ r → r < m.nreg → sym r < 24) (hcc : cc < m.nposs)
    (hfirst : sym 0 < 32) (w : WorkRegs) :
    ∃ abs br', readHeader (readBs s) rom m w br =
        .ok ({ w with abs := abs, catctl := Fin.ofNat 32 cc }, br') ∧
      br'.rem = more.length ∧ (vget abs 0).toInt = (sym 0 : Int) - 9 ∧
      ∀ r, r + 1 < m.nreg → (vget abs (r + 1)).toInt = (vget abs r).toInt + sym (r + 1) - 12 := by
  have hsteps := wireSteps_envelopeBits hrom (nreg_le m) hsym (bitsOf cc m.ccbits ++ more)
  have hlen : 5 ≤ (envelopeBits rom sym m.nreg ++ (bitsOf cc m.ccbits ++ more)).length := by
    rw [List.length_append, length_envelopeBits]
    exact (five_le_envelopeLength rom sym m.nreg).trans (Nat.le_add_right _ _)
  obtain ⟨abs, br', hread, hl, habs⟩ :=
    readHeader_whole hf rom m w hleft hlen (congrArg Prod.snd hsteps) (by simp)
  rw [take_envelopeBits, natOfBits_bitsOf, Nat.mod_eq_of_lt (show sym 0 < 2 ^ 5 from hfirst), hsteps] at habs
  rw [List.take_left' (length_bitsOf _ _), natOfBits_bitsOf,
    Nat.mod_eq_of_lt (show cc < 2 ^ m.ccbits from hcc)] at hread
  rw [List.drop_left' (length_bitsOf _ _)] at hl
  refine ⟨abs, br', hread, hl.rem, habs.first, fun r hr => ?_⟩
  have hreg := nreg_le m
  have hbound : ∀ j ∈ (List.range (m.nreg - 1)).map fun i => sym (1 + i), j < 24 := by
    intro j hj
    obtain ⟨i, hi, rfl⟩ := List.mem_map.mp hj
    have hi : i < m.nreg - 1 := List.mem_range.mp hi
    exact hsym _ (by omega) (by omega)
  have hnext := (habs.toInt_next hfirst (by simp; omega) hbound (r := r) (by simp; omega)).1
  rwa [lget_map_range, if_pos (by omega), Nat.add_comm 1 r] at hnext

/-- The state after `PWR_ENC` (R280). -/
def envelopeCoded (s : State) : State :=
  s.setW { s.w with
    env := envelopeBits s.build.rom (fun r => (vget s.w.sym r).val) s.e.mode.nreg
    envbits := envelopeLength s.build.rom (fun r => (vget s.w.sym r).val) s.e.mode.nreg }

theorem exec_pwrEnc (s : State) : exec .pwrEnc s = .next (envelopeCoded s) := rfl

/-- After `PWR_ENC` the payload begins with the envelope and the control value where these fit (R374). -/
theorem packedBits_envelopeCoded {s : State}
    (h : envelopeLength s.build.rom (fun r => (vget s.w.sym r).val) s.e.mode.nreg + s.e.mode.ccbits ≤
      encBpf s) :
    ∃ more, packedBits (envelopeCoded s) =
      envelopeBits s.build.rom (fun r => (vget s.w.sym r).val) s.e.mode.nreg ++
        (bitsOf s.w.catctl.val s.e.mode.ccbits ++ more) := by
  rw [← length_envelopeBits] at h
  exact packedBits_header (s := envelopeCoded s) h

/-- Settles O23: the payload begins with the header, and the header is read off its head. -/
theorem frameHeaderSurvivesTheWire : Obligations.FrameHeaderSurvivesTheWire := by
  intro s t hrom hl hrate hmode hferr hsym hctl hfit hrun
  have hbits : encBpf s = 8 * encBypf s := (frameBytes_of_legalRate hl).1
  have hfive := five_le_envelopeLength s.build.rom (fun r => (vget s.w.sym r).val) s.e.mode.nreg
  rw [runAll_cons, exec_pwrEnc, thenDo_next, show [exec .bsWinit, exec .pack, exec .bsFlush, exec .bsRinit,
    exec .pwrDec] = [exec .bsWinit, exec .pack, exec .bsFlush, exec .bsRinit] ++ [exec .pwrDec] from rfl,
    runAll_append] at hrun
  obtain ⟨v, hv, hrun⟩ := thenDo_eq_next.mp hrun
  obtain ⟨base, hready, hleft, hbuild, hdmode, hw⟩ := packed_frame_left hv hrate
    (show 0 < encBpf s by omega) (show encBpf s % 8 = 0 by omega)
  obtain ⟨more, hmore⟩ := packedBits_envelopeCoded hfit
  have hlen : (packedBits (envelopeCoded s)).length = encBpf s := length_packedBits _
  rw [hmore, List.length_append, List.length_append, length_envelopeBits, length_bitsOf] at hlen
  rw [hmore] at hleft
  obtain ⟨abs, br, hread, hrem, hfirst, hnext⟩ := readHeader_envelope hready hleft hrom hsym hctl
    (vget s.w.sym 0).isLt v.w
  have hdmode : v.d.mode = s.e.mode := hdmode.trans hmode
  have hbuild : v.build = s.build := hbuild
  obtain ⟨t', ht, hnil⟩ := thenDo_eq_next.mp hrun
  cases hnil
  rw [exec_pwrDec_of_readHeader (by rw [hbuild, hdmode, hread])] at ht
  cases ht
  refine ⟨?_, ?_, hfirst, hnext, ?_⟩
  · show v.w.ferr = 0#4
    rw [hw]
    exact hferr
  · exact Fin.ext (Nat.mod_eq_of_lt s.w.catctl.isLt)
  · show br.rem = _
    rw [hrem]
    omega

end Sys2Proof.Machine
end

section
/-! PROOF. `VQ_DEC` decodes its region from the bits left in the frame (46_vector_quantizer.md R332 to R336), or takes
the underrun exit where they end (R341). -/

namespace Sys2Proof.Machine

/-! ## One vector's values -/

theorem length_decomposeFrom (kinv base j p : Nat) (ks : List Nat) (nz : Nat) :
    (decomposeFrom kinv base j p ks nz).1.length = j + ks.length := by
  induction j generalizing p ks nz with
  | zero => rw [decomposeFrom, Nat.zero_add]
  | succ j ih => rw [decomposeFrom, ih, List.length_cons]; omega

section
variable {α : Type} (level : Nat → α) (neg : α → α)

theorem length_signedValues (ks : List Nat) (signs : List Bool) :
    (signedValues level neg ks signs).length = ks.length := by
  induction ks generalizing signs with
  | nil => rfl
  | cons k ks ih =>
    rw [signedValues]
    split <;> rw [List.length_cons, ih, List.length_cons]

theorem WireVector.element_zero (k : Nat) (ks : List Nat) (signs : List Bool) :
    WireVector.element ⟨k :: ks, signs⟩ level neg 0 =
      if k ≠ 0 ∧ signs.headD false = false then neg (level k) else level k := by
  cases signs <;> rfl

/-- A later element reads the signs behind those of the elements before it. -/
theorem WireVector.element_succ (k : Nat) (ks : List Nat) (signs : List Bool) (j : Nat) :
    WireVector.element ⟨k :: ks, signs⟩ level neg (j + 1) =
      WireVector.element ⟨ks, if k ≠ 0 then signs.tail else signs⟩ level neg j := by
  have hbin : lget (k :: ks) (j + 1) = lget ks j := by simp [lget]
  simp only [WireVector.element, hbin, List.take_succ_cons, List.countP_cons]
  by_cases hk : k = 0
  · simp [hk]
  · cases signs <;> simp [hk, lget]

variable [Inhabited α]

/-- The loop over a vector's elements gives each the level of its bin under its own sign bit (R332). -/
theorem lget_signedValues (ks : List Nat) (signs : List Bool) {j : Nat} (hj : j < ks.length) :
    lget (signedValues level neg ks signs) j = WireVector.element ⟨ks, signs⟩ level neg j := by
  induction ks generalizing signs j with
  | nil => cases hj
  | cons k ks ih =>
    cases j with
    | zero =>
      rw [WireVector.element_zero, signedValues]
      by_cases hk : k = 0
      · simp [hk, lget]
      · cases hs : signs.headD false <;> simp [hk, lget]
    | succ j =>
      rw [WireVector.element_succ, ← ih _ (Nat.lt_of_succ_lt_succ hj), signedValues]
      by_cases hk : k = 0 <;> simp [hk, lget]

/-! ## The values of a region -/

theorem vget_storeFrom (v : Vector α 640) (pos : Nat) (l : List α) (q : Nat) :
    vget (storeFrom v pos l) q =
      if pos ≤ q ∧ q < pos + l.length ∧ q < 640 then lget l (q - pos) else vget v q := by
  induction l generalizing v pos with
  | nil =>
    rw [storeFrom, if_neg]
    simp
    omega
  | cons x l ih =>
    rw [storeFrom, ih, vget_vset]
    by_cases hq : q = pos
    · subst hq
      by_cases h640 : q < 640 <;> simp [h640, lget]
    · by_cases hin : pos + 1 ≤ q ∧ q < pos + 1 + l.length ∧ q < 640
      · have hget : q - pos = q - (pos + 1) + 1 := by omega
        rw [if_pos hin, if_pos (by rw [List.length_cons]; omega), hget]
        simp [lget]
      · rw [if_neg hin, if_neg (by omega), if_neg (by rw [List.length_cons]; omega)]

/-- The values of vectors of `dim` elements one after the other, from an element on (R332). -/
def storeVectors (dim : Nat) : Nat → List WireVector → Vector α 640 → Vector α 640
  | _, [], v => v
  | pos, x :: xs, v => storeVectors dim (pos + dim) xs
      (storeFrom v pos (signedValues level neg x.bins x.signs))

/-- Outside the vectors nothing is stored. -/
theorem vget_storeVectors_outside {dim : Nat} {xs : List WireVector} (hdim : ∀ x ∈ xs, x.bins.length = dim)
    {pos q : Nat} (hq : q < pos ∨ pos + xs.length * dim ≤ q) (v : Vector α 640) :
    vget (storeVectors level neg dim pos xs v) q = vget v q := by
  induction xs generalizing pos v with
  | nil => rfl
  | cons x xs ih =>
    rw [List.length_cons, Nat.succ_mul] at hq
    rw [storeVectors, ih (fun y hy => hdim y (List.mem_cons_of_mem _ hy)) (by omega), vget_storeFrom,
      length_signedValues, hdim x (by simp), if_neg (by omega)]

/-- Element `j` of vector `m` stands at its place (R118, R332). -/
theorem vget_storeVectors_inside {dim : Nat} {xs : List WireVector} (hdim : ∀ x ∈ xs, x.bins.length = dim)
    {pos m j : Nat} (hm : m < xs.length) (hj : j < dim) (hin : pos + m * dim + j < 640)
    (v : Vector α 640) :
    vget (storeVectors level neg dim pos xs v) (pos + m * dim + j) = (lget xs m).element level neg j := by
  induction xs generalizing pos m v with
  | nil => cases hm
  | cons x xs ih =>
    have hrest : ∀ y ∈ xs, y.bins.length = dim := fun y hy => hdim y (List.mem_cons_of_mem _ hy)
    have hx : x.bins.length = dim := hdim x (by simp)
    rw [storeVectors]
    cases m with
    | zero =>
      rw [Nat.zero_mul, Nat.add_zero] at hin ⊢
      rw [vget_storeVectors_outside level neg hrest (by omega), vget_storeFrom, length_signedValues, hx,
        if_pos (by omega), Nat.add_sub_cancel_left, lget_signedValues _ _ _ _ (by omega)]
      rfl
    | succ m =>
      have hplace : pos + (m + 1) * dim + j = pos + dim + m * dim + j := by rw [Nat.succ_mul]; omega
      rw [hplace] at hin ⊢
      rw [ih hrest (Nat.lt_of_succ_lt_succ hm) hin]
      simp [lget]

end

/-! ## The vectors on the wire -/

theorem wireVector_bins {rom : Rom} {c : Nat} {bits rest : List Bool} {x : WireVector}
    (h : wireVector rom c bits = some (x, rest)) : x.bins.length = vget rom.vdim c := by
  simp only [wireVector] at h
  split at h
  next => cases h
  next =>
    split at h
    next => cases h
    next => cases h; exact length_decomposeFrom _ _ _ _ _ _

theorem wireVectors_bins (rom : Rom) (c k : Nat) (bits : List Bool) :
    ∀ x ∈ (wireVectors rom c k bits).1, x.bins.length = vget rom.vdim c := by
  induction k generalizing bits with
  | zero => exact nofun
  | succ k ih =>
    simp only [wireVectors]
    split
    next => exact nofun
    next x rest hx =>
      intro y hy
      rcases List.mem_cons.mp hy with rfl | hy
      · exact wireVector_bins hx
      · exact ih rest y hy

theorem length_wireVectors_le (rom : Rom) (c k : Nat) (bits : List Bool) :
    (wireVectors rom c k bits).1.length ≤ k := by
  induction k generalizing bits with
  | zero => exact Nat.le_refl _
  | succ k ih =>
    simp only [wireVectors]
    split
    next => exact Nat.zero_le _
    next => exact Nat.succ_le_succ (ih _)

/-- A whole region has all its vectors. -/
theorem length_wireVectors {rom : Rom} {c k : Nat} {bits rest : List Bool}
    (h : (wireVectors rom c k bits).2 = some rest) : (wireVectors rom c k bits).1.length = k := by
  induction k generalizing bits with
  | zero => rfl
  | succ k ih =>
    simp only [wireVectors] at h ⊢
    split at h
    next => cases h
    next => simp only [List.length_cons, ih h]

/-! ## The vector loop -/

/-- The coefficients after a list of vectors from an element on, in the backend of the build (R332, R336). -/
def storeRegion (b : Build) (sd : SigReg 28) (r c pos : Nat) (xs : List WireVector) (coef : SigReg 640) :
    SigReg 640 :=
  coef.put b.backend
    (storeVectors (dequantFixed b.rom (vget sd.fx r) c) neg16 (vget b.rom.vdim c) pos xs coef.fx)
    (storeVectors (dequantFloat b.rom (vget sd.fl r) c) Config.fNeg (vget b.rom.vdim c) pos xs coef.fl)

theorem storeRegion_nil (b : Build) (sd : SigReg 28) (r c pos : Nat) (coef : SigReg 640) :
    storeRegion b sd r c pos [] coef = coef := by
  rw [storeRegion]
  cases b.backend <;> rfl

theorem storeRegion_cons (b : Build) (sd : SigReg 28) (r c pos : Nat) (x : WireVector)
    (xs : List WireVector) (coef : SigReg 640) :
    storeRegion b sd r c pos (x :: xs) coef =
      storeRegion b sd r c (pos + vget b.rom.vdim c) xs (storeVector b sd r c pos x.bins x.signs coef) := by
  simp only [storeRegion, storeVector, storeVectors]
  cases b.backend <;> rfl

section
variable {s : State} {base n : Nat} {br : BitReader} {bits : List Bool}

/-- The loop reads the vectors on the wire, and says whether they were all there (R332, R341). -/
theorem decodeVectors_wire (hf : frameReady s base n) (b : Build) (sd : SigReg 28) (r c k pos : Nat)
    (coef : SigReg 640) (h : LeftAt s base n br bits) :
    let wire := wireVectors b.rom c k bits
    ∃ br', decodeVectors (readBs s) b sd r c k pos coef br =
        .ok (wire.2.isSome, storeRegion b sd r c pos wire.1 coef, br') ∧
      ∀ rest, wire.2 = some rest → LeftAt s base n br' rest := by
  induction k generalizing pos coef br bits with
  | zero =>
    refine ⟨br, by rw [decodeVectors, wireVectors, storeRegion_nil]; rfl, fun rest hrest => ?_⟩
    cases hrest
    exact h
  | succ k ih =>
    simp only [decodeVectors, wireVectors, wireVector]
    cases hw : walkString (vqTreeAt b.rom c) 0 bits with
    | none =>
      obtain ⟨br1, h1, -⟩ := walkTree_none hf h hw
      rw [h1]
      exact ⟨br1, by rw [storeRegion_nil]; rfl, nofun⟩
    | some p =>
      obtain ⟨index, rest⟩ := p
      obtain ⟨br1, h1, hl1⟩ := walkTree_some hf h hw
      have hrem := hl1.rem
      rw [h1]
      dsimp only
      by_cases hshort : rest.length < (decompose b.rom index c).2
      · rw [if_pos (by omega), if_pos hshort]
        exact ⟨br1, by rw [storeRegion_nil]; rfl, nofun⟩
      · obtain ⟨br2, h2, hl2⟩ := getBits_whole hf hl1 (Nat.not_lt.mp hshort)
        rw [if_neg (by omega), if_neg hshort, h2]
        simp only [storeRegion_cons]
        exact ih _ _ hl2

end

/-! ## `VQ_DEC` -/

/-- Category 7 codes nothing (R332). -/
theorem exec_vqDec_seven {s : State} (h : (vget s.w.cat s.seq.region.val).val = 7) :
    exec .vqDec s = .next s := by
  show execVqDec s = _
  simp only [execVqDec]
  rw [if_pos h]

/-- The result of the vector loop below category 7 (R332, R341). -/
theorem exec_vqDec_below {s : State} {whole : Bool} {coef : SigReg 640} {br : BitReader}
    (hc : (vget s.w.cat s.seq.region.val).val < 7)
    (h : decodeVectors (readBs s) s.build s.w.sd s.seq.region.val (vget s.w.cat s.seq.region.val).val
      (vget s.build.rom.nvec (vget s.w.cat s.seq.region.val).val) (20 * s.seq.region.val) s.w.coef s.d.br =
        .ok (whole, coef, br)) :
    exec .vqDec s = .next (bif whole then (s.setW { s.w with coef := coef }).setD { s.d with br := br }
      else (s.setW (underrunRegs { s.w with coef := coef } s.seq.region.val s.d.mode.nreg)).setD
        { s.d with br := { br with rem := -1 } }) := by
  show execVqDec s = _
  simp only [execVqDec]
  rw [if_neg (by omega), h]
  cases whole <;> rfl

/-- The categories after the underrun exit (R341). -/
theorem vget_underrunRegs_cat (w : WorkRegs) (r q : Nat) (m : Mode) :
    vget (underrunRegs w r m.nreg).cat q = if r ≤ q ∧ q < m.nreg then 7 else vget w.cat q := by
  have hle := nreg_le m
  rw [underrunRegs, vget_vfillFrom]
  congr 1
  simp only [eq_iff_iff]
  omega

/-- In `FIXED` the elements of the vectors are written, and no others (R332, R336). -/
theorem storeRegion_fixed {b : Build} (hb : b.backend = .fixed) (sd : SigReg 28) (r c pos : Nat)
    (xs : List WireVector) (coef : SigReg 640) :
    storeRegion b sd r c pos xs coef = { coef with
      fx := storeVectors (dequantFixed b.rom (vget sd.fx r) c) neg16 (vget b.rom.vdim c) pos xs coef.fx } := by
  rw [storeRegion, hb]
  rfl

/-- The same in `FLOAT`. -/
theorem storeRegion_float {b : Build} (hb : b.backend = .float) (sd : SigReg 28) (r c pos : Nat)
    (xs : List WireVector) (coef : SigReg 640) :
    storeRegion b sd r c pos xs coef = { coef with
      fl := storeVectors (dequantFloat b.rom (vget sd.fl r) c) Config.fNeg (vget b.rom.vdim c) pos xs
        coef.fl } := by
  rw [storeRegion, hb]
  rfl

/-- The vectors of a conforming ROM fill the region's 20 elements (10_state.md R48). -/
theorem wireVectors_fill {rom : Rom} {c : Nat} (hrom : categoryWf rom) (hc : c < 7) (bits : List Bool) :
    (wireVectors rom c (vget rom.nvec c) bits).1.length * vget rom.vdim c ≤ 20 ∧
      ∀ rest, (wireVectors rom c (vget rom.nvec c) bits).2 = some rest →
        (wireVectors rom c (vget rom.nvec c) bits).1.length * vget rom.vdim c = 20 := by
  have h20 : vget rom.nvec c * vget rom.vdim c = 20 := by
    rw [Nat.mul_comm]
    exact hrom.1 c hc
  refine ⟨?_, fun rest hrest => by rw [length_wireVectors hrest, h20]⟩
  rw [← h20]
  exact Nat.mul_le_mul_right _ (length_wireVectors_le _ _ _ _)

/-- Settles O51: the vectors on the wire, then the region is whole or takes the underrun exit. -/
theorem vqDecDecodesItsRegionOrUnderruns : Obligations.VqDecDecodesItsRegionOrUnderruns := by
  intro s base n hf hin r c rom dim read place
  refine ⟨exec_vqDec_seven, fun hc => ?_⟩
  obtain ⟨br, hread, hrest⟩ := decodeVectors_wire hf s.build s.w.sd r c (vget rom.nvec c) (20 * r) s.w.coef
    (.of_readerAt hin)
  have hexec := exec_vqDec_below hc hread
  have hbins : ∀ x ∈ read.1, x.bins.length = dim := wireVectors_bins _ _ _ _
  refine ⟨storeRegion s.build s.w.sd r c (20 * r) read.1 s.w.coef,
    bif read.2.isSome then s.w.underrun else true,
    bif read.2.isSome then s.w.cat else (underrunRegs s.w r s.d.mode.nreg).cat,
    bif read.2.isSome then br else { br with rem := -1 }, ?_, fun rest hsome => ?_, fun hnone => ?_,
    fun hb => ?_, fun hb => ?_, fun hrom => wireVectors_fill hrom hc _⟩
  · rw [hexec]
    show _ = Host.Outcome.next _
    cases read.2 <;> rfl
  · rw [hsome]
    exact ⟨rfl, rfl, (hrest rest hsome).inside, (hrest rest hsome).rem⟩
  · rw [hnone]
    exact ⟨rfl, rfl, fun q => vget_underrunRegs_cat _ _ _ _⟩
  · rw [storeRegion_fixed hb]
    exact ⟨rfl, fun m hm j hj hp => vget_storeVectors_inside _ _ hbins hm hj hp _,
      fun p hp => vget_storeVectors_outside _ _ hbins hp _⟩
  · rw [storeRegion_float hb]
    exact ⟨rfl, fun m hm j hj hp => vget_storeVectors_inside _ _ hbins hm hj hp _,
      fun p hp => vget_storeVectors_outside _ _ hbins hp _⟩

end Sys2Proof.Machine
end

section
/-! PROOF. The basic operations of 40_basic_ops.md answer the exact result clamped to the width (R141 to R158). The
clamp of the shifts turns on one fact about powers of two: past the width, a value other than 0 leaves the range
upwards, and its floor quotient keeps its sign only. -/

namespace Sys2Proof.Machine

/-! ## Powers of two past the width -/

theorem two_pow_le_mul_two_pow {v : Int} {k n : Nat} (hv : 0 < v) (hkn : k ≤ n) : 2 ^ k ≤ v * 2 ^ n :=
  calc (2 : Int) ^ k ≤ 2 ^ n := pow_le_pow_right₀ (by norm_num) hkn
    _ ≤ v * 2 ^ n := le_mul_of_one_le_left (by positivity) hv

theorem mul_two_pow_le_neg_two_pow {v : Int} {k n : Nat} (hv : v < 0) (hkn : k ≤ n) :
    v * 2 ^ n ≤ -2 ^ k := by
  have h := two_pow_le_mul_two_pow (neg_pos.mpr hv) hkn
  rw [neg_mul] at h
  omega

/-- A value of `k + 1` bits, shifted down by `k` or more, is its sign. -/
theorem ediv_two_pow_eq_sign {v : Int} {k n : Nat} (hlo : -2 ^ k ≤ v) (hhi : v < 2 ^ k) (hkn : k ≤ n) :
    v / 2 ^ n = if v < 0 then -1 else 0 := by
  have hpow : (2 : Int) ^ k ≤ 2 ^ n := pow_le_pow_right₀ (by norm_num) hkn
  rw [Int.ediv_eq_iff_of_pos (by positivity)]
  split <;> omega

/-- Half of the last place kept, added before the shift, is a shift to one place more, rounded up. -/
theorem add_half_ediv_two_pow (v : Int) (m : Nat) : (v + 2 ^ m) / 2 ^ (m + 1) = (v / 2 ^ m + 1) / 2 := by
  have hpos : (0 : Int) < 2 ^ m := by positivity
  rw [pow_succ, ← Int.ediv_ediv_of_nonneg hpos.le, Int.add_ediv_of_dvd_right dvd_rfl,
    Int.ediv_self hpos.ne']

/-! ## The shifts -/

theorem shiftUp16_eq (v n : Int) : shiftUp16 v n = sat16 (v * 2 ^ n.toNat) := by
  unfold shiftUp16
  split
  next hv => rw [hv, Int.zero_mul]; rfl
  next hv =>
    split
    next hbig =>
      have hk : 15 ≤ n.toNat := by omega
      unfold sat16
      split
      next hpos => have := two_pow_le_mul_two_pow hpos hk; omega
      next hneg => have := mul_two_pow_le_neg_two_pow (by omega : v < 0) hk; omega
    next => rfl

theorem shiftUp32_eq (v n : Int) : shiftUp32 v n = sat32 (v * 2 ^ n.toNat) := by
  unfold shiftUp32
  split
  next hv => rw [hv, Int.zero_mul]; rfl
  next hv =>
    split
    next hbig =>
      have hk : 31 ≤ n.toNat := by omega
      unfold sat32
      split
      next hpos => have := two_pow_le_mul_two_pow hpos hk; omega
      next hneg => have := mul_two_pow_le_neg_two_pow (by omega : v < 0) hk; omega
    next => rfl

theorem shiftDown16_eq (v : I16) (n : Int) : shiftDown16 v.toInt n = v.toInt / 2 ^ n.toNat := by
  have hv := toInt_range16 v
  unfold shiftDown16
  split
  next hbig => exact (ediv_two_pow_eq_sign (k := 15) (by omega) (by omega) (by omega)).symm
  next => rfl

theorem shiftDown32_eq (v : I32) (n : Int) : shiftDown32 v.toInt n = v.toInt / 2 ^ n.toNat := by
  have hv := toInt_range32 v
  unfold shiftDown32
  split
  next hbig => exact (ediv_two_pow_eq_sign (k := 31) (by omega) (by omega) (by omega)).symm
  next => rfl

/-- R145: the exact product, clamped. -/
theorem shl16_toInt_of_nonneg (v : I16) {n : Int} (hn : 0 ≤ n) :
    (shl16 v n).toInt = sat16 (v.toInt * 2 ^ n.toNat) := by
  rw [shl16_toInt, if_neg (by omega), shiftUp16_eq]

/-- R146: the floor quotient. -/
theorem shr16_toInt_of_nonneg (v : I16) {n : Int} (hn : 0 ≤ n) :
    (shr16 v n).toInt = v.toInt / 2 ^ n.toNat := by
  rw [shr16_toInt, if_neg (by omega), shiftDown16_eq]

/-- R149: the exact product, clamped. -/
theorem shl32_toInt_of_nonneg (v : I32) {n : Int} (hn : 0 ≤ n) :
    (shl32 v n).toInt = sat32 (v.toInt * 2 ^ n.toNat) := by
  rw [shl32_toInt, if_neg (by omega), shiftUp32_eq]

/-- R150: the floor quotient. -/
theorem shr32_toInt_of_nonneg (v : I32) {n : Int} (hn : 0 ≤ n) :
    (shr32 v n).toInt = v.toInt / 2 ^ n.toNat := by
  rw [shr32_toInt, if_neg (by omega), shiftDown32_eq]

/-- A count of 0 leaves the value; any other count chooses one direction, the same one in both operations. -/
theorem shl16_neg (v : I16) (n : Int) : shl16 v (-n) = shr16 v n := by
  rcases lt_trichotomy n 0 with hn | rfl | hn
  · rw [shl16, shr16, if_neg (by omega), if_pos hn]
  · have hv := toInt_range16 v
    apply BitVec.eq_of_toInt_eq
    rw [neg_zero, shl16_toInt_of_nonneg v le_rfl, shr16_toInt_of_nonneg v le_rfl, Int.toNat_zero, pow_zero,
      mul_one, Int.ediv_one, sat16_of_range hv.1 hv.2]
  · rw [shl16, shr16, if_pos (by omega), if_neg (by omega), neg_neg]

theorem shl32_neg (v : I32) (n : Int) : shl32 v (-n) = shr32 v n := by
  rcases lt_trichotomy n 0 with hn | rfl | hn
  · rw [shl32, shr32, if_neg (by omega), if_pos hn]
  · have hv := toInt_range32 v
    apply BitVec.eq_of_toInt_eq
    rw [neg_zero, shl32_toInt_of_nonneg v le_rfl, shr32_toInt_of_nonneg v le_rfl, Int.toNat_zero, pow_zero,
      mul_one, Int.ediv_one, sat32_of_range hv.1 hv.2]
  · rw [shl32, shr32, if_pos (by omega), if_neg (by omega), neg_neg]

theorem shr16_neg (v : I16) (n : Int) : shr16 v (-n) = shl16 v n := by rw [← shl16_neg, neg_neg]

theorem shr32_neg (v : I32) (n : Int) : shr32 v (-n) = shl32 v n := by rw [← shl32_neg, neg_neg]

/-! ## The rounding shifts (R157) -/

theorem rshr16_toInt_succ (v : I16) (m : Nat) :
    (rshr16 v (m + 1 : Nat)).toInt = (v.toInt + 2 ^ m) / 2 ^ (m + 1) := by
  have hv := toInt_range16 v
  have hq := ediv_pow_range v.toInt m hv.1 hv.2 (by norm_num) (by norm_num)
  have hm : ((m + 1 : Nat) - 1 : Int).toNat = m := by omega
  rw [rshr16, if_neg (by omega), hm, Int.toNat_natCast, add_half_ediv_two_pow]
  exact toI16_toInt (by omega) (by omega)

theorem rshr32_toInt_succ (v : I32) (m : Nat) :
    (rshr32 v (m + 1 : Nat)).toInt = (v.toInt + 2 ^ m) / 2 ^ (m + 1) := by
  have hv := toInt_range32 v
  have hq := ediv_pow_range v.toInt m hv.1 hv.2 (by norm_num) (by norm_num)
  have hm : ((m + 1 : Nat) - 1 : Int).toNat = m := by omega
  rw [rshr32, if_neg (by omega), hm, Int.toNat_natCast, add_half_ediv_two_pow]
  exact toI32_toInt (by omega) (by omega)

theorem rshr16_neg (v : I16) (n : Nat) : rshr16 v (-n) = shl16 v n := by
  rw [rshr16, if_pos (by omega), neg_neg]

theorem rshr32_neg (v : I32) (n : Nat) : rshr32 v (-n) = shl32 v n := by
  rw [rshr32, if_pos (by omega), neg_neg]

/-! ## The operations that saturate at one operand only -/

/-- R143 -/
theorem neg16_toInt_eq (a : I16) : (neg16 a).toInt = if a.toInt = -32768 then 32767 else -a.toInt := by
  have ha := toInt_range16 a
  rw [neg16_toInt, sat16]
  split <;> omega

/-- R144 -/
theorem abs16_toInt_eq (a : I16) : (abs16 a).toInt = if a.toInt = -32768 then 32767 else |a.toInt| := by
  have ha := toInt_range16 a
  rw [abs16_toInt, sat16]
  split
  next hmin => rw [hmin]; rfl
  next hmin =>
    have : |a.toInt| ≤ 32767 := abs_le.mpr ⟨by omega, by omega⟩
    have := abs_nonneg a.toInt
    omega

/-- The product reaches 2^30 at the two least numbers only. -/
theorem mul_lt_of_not_both_min {a b : I16} (h : ¬(a.toInt = -32768 ∧ b.toInt = -32768)) :
    a.toInt * b.toInt < 1073741824 := by
  have ha := toInt_range16 a
  have hb := toInt_range16 b
  have habs : |a.toInt| ≤ 32768 := abs_le.mpr ⟨by omega, by omega⟩
  have hbbs : |b.toInt| ≤ 32768 := abs_le.mpr ⟨by omega, by omega⟩
  have hone : |a.toInt| ≤ 32767 ∨ |b.toInt| ≤ 32767 := by
    simp only [abs_le]
    omega
  have hle : a.toInt * b.toInt ≤ |a.toInt| * |b.toInt| := abs_mul a.toInt b.toInt ▸ le_abs_self _
  rcases hone with hsmall | hsmall
  · have := mul_le_mul hsmall hbbs (abs_nonneg _) (by norm_num)
    omega
  · have := mul_le_mul habs hsmall (abs_nonneg _) (by norm_num)
    omega

/-- R151 -/
theorem mult16_toInt_eq (a b : I16) : (mult16 a b).toInt =
    if a.toInt = -32768 ∧ b.toInt = -32768 then 32767 else a.toInt * b.toInt / 32768 := by
  rw [mult16_toInt]
  split
  next hmin => rw [hmin.1, hmin.2]; rfl
  next hmin =>
    have hlo := (mul_range16 a b).1
    have hhi := mul_lt_of_not_both_min hmin
    exact sat16_of_range (by omega) (by omega)

/-- R152 -/
theorem lmult_toInt_eq (a b : I16) : (lmult a b).toInt =
    if a.toInt = -32768 ∧ b.toInt = -32768 then 2147483647 else 2 * a.toInt * b.toInt := by
  rw [lmult_toInt]
  split
  next hmin => rw [hmin.1, hmin.2]; rfl
  next hmin =>
    have hlo := (mul_range16 a b).1
    have hhi := mul_lt_of_not_both_min hmin
    rw [mul_assoc]
    exact sat32_of_range (by omega) (by omega)

/-- R156: the addition of 32768 can pass the range upwards only. -/
theorem round16_toInt_eq (x : I32) : (round16 x).toInt = min 2147483647 (x.toInt + 32768) / 65536 := by
  have hx := toInt_range32 x
  rw [round16_toInt, sat32, max_eq_right (by omega)]

/-! ## The halves (R158) -/

theorem dvd_toInt_sub_xl (x : I32) : (65536 : Int) ∣ x.toInt - (xl x).toInt := by
  have hx : x.toInt = x.toNat - if 2147483648 ≤ x.toNat then 4294967296 else 0 := by
    rw [BitVec.toInt_eq_toNat_cond]
    split <;> split <;> omega
  have hl : (xl x).toInt % 65536 = (x.toNat : Int) % 65536 := by
    rw [xl, BitVec.toInt_setWidth]
    exact Int.bmod_emod
  split at hx <;> omega

theorem xh_toInt (x : I32) : (xh x).toInt = x.toInt / 65536 := by
  have hx := toInt_range32 x
  exact toI16_toInt (by omega) (by omega)

/-- Settles O60, operation by operation. -/
theorem basicOperationsSaturateTheExactResult : Obligations.BasicOperationsSaturateTheExactResult := by
  intro a b x y
  refine ⟨add16_toInt a b, sub16_toInt a b, neg16_toInt_eq a, abs16_toInt_eq a, fun n hn => ?_,
    add32_toInt x y, sub32_toInt x y, fun n hn => ?_, mult16_toInt_eq a b, lmult_toInt_eq a b,
    lmult0_toInt a b, add32_toInt x (lmult a b), lmac0_toInt x a b, round16_toInt_eq x, fun n hn => ?_,
    fun n => ⟨rshr16_neg a n, rshr32_neg x n⟩, dvd_toInt_sub_xl x, xh_toInt x⟩
  · exact ⟨shl16_toInt_of_nonneg a hn, shr16_toInt_of_nonneg a hn, shl16_neg a n, shr16_neg a n⟩
  · exact ⟨shl32_toInt_of_nonneg x hn, shr32_toInt_of_nonneg x hn, shl32_neg x n, shr32_neg x n⟩
  · obtain ⟨m, rfl⟩ := Nat.exists_eq_add_one.mpr hn
    exact ⟨rshr16_toInt_succ a m, rshr32_toInt_succ x m⟩

end Sys2Proof.Machine
end

section
/-! PROOF. The normalization helpers of 40_basic_ops.md (R159, R160). Both search the least shift that brings a
magnitude up to a power of two; what that search gives is said once, for every width. -/

namespace Sys2Proof.Machine

/-! ## The least shift -/

theorem leastShift_le (t target : Int) (bound : Nat) : leastShift t target bound ≤ bound := by
  rw [leastShift]
  cases h : (List.range bound).find? fun n => decide (target ≤ t * 2 ^ n) with
  | none => exact le_rfl
  | some n => exact (List.mem_range.mp (List.find?_range_eq_some.mp h).2.1).le

theorem lt_of_lt_leastShift {t target : Int} {bound m : Nat} (hm : m < leastShift t target bound) :
    t * 2 ^ m < target := by
  rw [leastShift] at hm
  cases h : (List.range bound).find? fun n => decide (target ≤ t * 2 ^ n) with
  | none =>
    rw [h] at hm
    simpa using List.find?_range_eq_none.mp h m hm
  | some n =>
    rw [h] at hm
    simpa using (List.find?_range_eq_some.mp h).2.2 m hm

theorem le_mul_two_pow_leastShift {t target : Int} {bound : Nat} (hbound : target ≤ t * 2 ^ bound) :
    target ≤ t * 2 ^ leastShift t target bound := by
  rw [leastShift]
  cases h : (List.range bound).find? fun n => decide (target ≤ t * 2 ^ n) with
  | none => exact hbound
  | some n => simpa using (List.find?_range_eq_some.mp h).1

/-- `t * 2 ^ m` and `2 ^ k` are both multiples of `2 ^ m`: below the power of two, the next multiple does not pass it. -/
theorem succ_mul_two_pow_le {t : Int} {k m : Nat} (hmk : m ≤ k) (h : t * 2 ^ m < 2 ^ k) :
    (t + 1) * 2 ^ m ≤ 2 ^ k := by
  have hk : (2 : Int) ^ k = 2 ^ (k - m) * 2 ^ m := by rw [← pow_add, Nat.sub_add_cancel hmk]
  rw [hk] at h ⊢
  have hlt : t < 2 ^ (k - m) := lt_of_mul_lt_mul_right h (by positivity)
  exact mul_le_mul_of_nonneg_right hlt (by positivity)

/-- The shift found brings a magnitude of `k + 1` bits up to its top bit, and no further. -/
theorem leastShift_brings_up {t : Int} {k : Nat} (hpos : 0 < t) (hlt : t < 2 ^ (k + 1)) :
    2 ^ k ≤ t * 2 ^ leastShift t (2 ^ k) (k + 1) ∧
      (t + 1) * 2 ^ leastShift t (2 ^ k) (k + 1) ≤ 2 ^ (k + 1) := by
  refine ⟨le_mul_two_pow_leastShift (two_pow_le_mul_two_pow hpos (Nat.le_succ k)), ?_⟩
  have hle := leastShift_le t (2 ^ k) (k + 1)
  have hshort : ∀ m < leastShift t (2 ^ k) (k + 1), t * 2 ^ m < 2 ^ k := fun m => lt_of_lt_leastShift
  cases h : leastShift t (2 ^ k) (k + 1) with
  | zero => rw [pow_zero, mul_one]; exact hlt
  | succ m =>
    rw [h] at hle hshort
    have hm := succ_mul_two_pow_le (by omega) (hshort m (Nat.lt_succ_self m))
    rw [pow_succ, pow_succ, ← mul_assoc]
    exact mul_le_mul_of_nonneg_right hm (by norm_num)

/-! ## Normalization at every width -/

/-- `s` is the normalization shift of a number `v` of `k + 2` bits. -/
structure NormShift (k : Nat) (v : Int) (s : Nat) : Prop where
  le : s ≤ k + 1
  ofPos : 0 < v → 2 ^ k ≤ v * 2 ^ s ∧ v * 2 ^ s ≤ 2 ^ (k + 1) - 1
  ofNeg : v < -1 → -2 ^ (k + 1) ≤ v * 2 ^ s ∧ v * 2 ^ s ≤ -2 ^ k - 1
  ofNegOne : v = -1 → s = k + 1

theorem normShift_neg_one (k : Nat) : NormShift k (-1) (k + 1) :=
  ⟨le_rfl, fun h => by omega, fun h => by omega, fun _ => rfl⟩

theorem normShift_leastShift {k : Nat} {v : Int} (hzero : v ≠ 0) (hone : v ≠ -1) (hlo : -2 ^ (k + 1) ≤ v)
    (hhi : v < 2 ^ (k + 1)) :
    NormShift k v (leastShift (if v > 0 then v else -v - 1) (2 ^ k) (k + 1)) := by
  have hs : ∀ s : Nat, (1 : Int) ≤ 2 ^ s := fun s => one_le_pow₀ (by norm_num)
  split
  next hpos =>
    obtain ⟨hreach, hfit⟩ := leastShift_brings_up hpos hhi
    refine ⟨leastShift_le _ _ _, fun _ => ⟨hreach, ?_⟩, fun h => by omega, fun h => by omega⟩
    have := hs (leastShift v (2 ^ k) (k + 1))
    rw [add_mul, one_mul] at hfit
    omega
  next hneg =>
    obtain ⟨hreach, hfit⟩ := leastShift_brings_up (k := k) (t := -v - 1) (by omega) (by omega)
    refine ⟨leastShift_le _ _ _, fun h => by omega, fun _ => ?_, fun h => absurd h hone⟩
    have := hs (leastShift (-v - 1) (2 ^ k) (k + 1))
    rw [sub_mul, one_mul, neg_mul] at hreach
    rw [sub_add_cancel, neg_mul] at hfit
    omega

/-- The normalizing shift does not leave the width. -/
theorem NormShift.inRange {k : Nat} {v : Int} {s : Nat} (h : NormShift k v s) (hzero : v ≠ 0) :
    -2 ^ (k + 1) ≤ v * 2 ^ s ∧ v * 2 ^ s ≤ 2 ^ (k + 1) - 1 := by
  have hk : (0 : Int) < 2 ^ k := by positivity
  have hk' : (0 : Int) < 2 ^ (k + 1) := by positivity
  rcases lt_trichotomy v (-1) with hv | hv | hv
  · obtain ⟨hlo, hhi⟩ := h.ofNeg hv
    omega
  · rw [h.ofNegOne hv, hv]
    omega
  · obtain ⟨hlo, hhi⟩ := h.ofPos (by omega)
    omega

/-! ## The two helpers -/

theorem norm16_normShift (nz : I16) {v : I16} (hv : v ≠ 0#16) :
    ∃ s : Nat, (norm16 nz v).toInt = s ∧ NormShift 14 v.toInt s := by
  have hrange := toInt_range16 v
  have hzero : v.toInt ≠ 0 := fun h => hv (BitVec.eq_of_toInt_eq h)
  rw [norm16, if_neg hzero]
  split
  next hone => exact ⟨15, rfl, hone ▸ normShift_neg_one 14⟩
  next hone =>
    have hle := leastShift_le (if v.toInt > 0 then v.toInt else -v.toInt - 1) 16384 15
    exact ⟨_, toI16_toInt (by omega) (by omega),
      normShift_leastShift (k := 14) hzero hone (by omega) (by omega)⟩

theorem norm32_normShift (nz : I16) {v : I32} (hv : v ≠ 0#32) :
    ∃ s : Nat, (norm32 nz v).toInt = s ∧ NormShift 30 v.toInt s := by
  have hrange := toInt_range32 v
  have hzero : v.toInt ≠ 0 := fun h => hv (BitVec.eq_of_toInt_eq h)
  rw [norm32, if_neg hzero]
  split
  next hone => exact ⟨31, rfl, hone ▸ normShift_neg_one 30⟩
  next hone =>
    have hle := leastShift_le (if v.toInt > 0 then v.toInt else -v.toInt - 1) 1073741824 31
    exact ⟨_, toI16_toInt (by omega) (by omega),
      normShift_leastShift (k := 30) hzero hone (by omega) (by omega)⟩

/-- Settles O59: each helper's answer is a normalization shift of its width, and such a shift is exact. -/
theorem normalizationBringsTheTopBitUp : Obligations.NormalizationBringsTheTopBitUp := by
  refine ⟨fun nz v hv => ?_, fun nz v hv => ?_, fun nz => ⟨rfl, rfl⟩⟩
  · have hzero : v.toInt ≠ 0 := fun h => hv (BitVec.eq_of_toInt_eq h)
    obtain ⟨s, hs, hnorm⟩ := norm16_normShift nz hv
    obtain ⟨hlo, hhi⟩ := hnorm.inRange hzero
    have hle := hnorm.le
    rw [hs, shl16_toInt_of_nonneg v (Int.natCast_nonneg s), Int.toNat_natCast]
    exact ⟨by omega, by omega, hnorm.ofPos, hnorm.ofNeg, fun h => congrArg Nat.cast (hnorm.ofNegOne h),
      sat16_of_range hlo hhi⟩
  · have hzero : v.toInt ≠ 0 := fun h => hv (BitVec.eq_of_toInt_eq h)
    obtain ⟨s, hs, hnorm⟩ := norm32_normShift nz hv
    obtain ⟨hlo, hhi⟩ := hnorm.inRange hzero
    have hle := hnorm.le
    rw [hs, shl32_toInt_of_nonneg v (Int.natCast_nonneg s), Int.toNat_natCast]
    exact ⟨by omega, by omega, hnorm.ofPos, hnorm.ofNeg, fun h => congrArg Nat.cast (hnorm.ofNegOne h),
      sat32_of_range hlo hhi⟩

end Sys2Proof.Machine
end

section
/-! PROOF. The rest of the bitstream engine: guarded reads at the end of a frame (41_bitstream.md R190), the
widths and bytes that are outside (R182, R187), and the cursors at a frame's first byte (R185, R189). -/

namespace Sys2Proof.Machine

/-! ## Guarded reads -/

/-- `GETBITS` of more bits than the frame has left is `EXHAUSTED` at the frame's end (R190). -/
theorem getBits_past_frame {s : State} {base n k : Nat} (hf : frameReady s base n) {br : BitReader}
    (hr : readerAt s.bs br base n) (hk : br.rem < k) :
    ∃ br', getBits (readBs s) k br = .ok (none, br') ∧ readerAt s.bs br' base n ∧ br'.rem = 0 := by
  have hleft := LeftAt.of_readerAt hr
  have hshort : (leftBits s.bs br base n).length < k := by rw [hleft.rem] at hk; exact Int.ofNat_lt.mp hk
  obtain ⟨br', hget, hend⟩ := getBits_short hf hleft hshort
  exact ⟨br', hget, hend.inside, hend.rem⟩

/-- Settles O32: either the frame has the `k` bits, or the read is exhausted at the frame's end. -/
theorem guardedReadsStayInsideTheFrame : Obligations.GuardedReadsStayInsideTheFrame := by
  intro s base n k hf hr
  rcases le_or_gt (k : Int) s.d.br.rem with hk | hk
  · obtain ⟨bits, br, hget, hin, hrem, hbits⟩ := getBits_in_frame hf k hr hk
    exact ⟨some bits, br, hget, hin, fun _ => ⟨hrem, bits, rfl, hbits⟩, fun h => by omega⟩
  · obtain ⟨br, hget, hin, hrem⟩ := getBits_past_frame hf hr hk
    exact ⟨none, br, hget, hin, fun h => by omega, fun _ => ⟨rfl, hrem⟩⟩

/-! ## Refused widths, and the end of `BSBUF` -/

theorem exec_bsPut_refused {s : State} (h : ¬ (1 ≤ s.port.nbits ∧ s.port.nbits ≤ 32)) :
    exec .bsPut s = .refused (.fieldWidth s.port.nbits) := by
  show execBsPut s = _
  rw [execBsPut, if_neg h]

theorem exec_bsGet_refused {s : State} (h : ¬ (1 ≤ s.port.nbits ∧ s.port.nbits ≤ 32)) :
    exec .bsGet s = .refused (.fieldWidth s.port.nbits) := by
  show execBsGet s = _
  rw [execBsGet, if_neg h]

theorem exec_bsPut_fault {s : State} (h1 : 1 ≤ s.port.nbits) (h32 : s.port.nbits ≤ 32)
    (hfull : ¬ roomFor s (bytesOf s.e.bw s.port.nbits) = true) :
    exec .bsPut s = .fault (packerFault s) := by
  show execBsPut s = _
  rw [execBsPut, if_pos ⟨h1, h32⟩, if_neg hfull]

/-- Settles O28: the guard on the width, then the capacity for a put that completes a byte. -/
theorem fieldWidthsOutsideRangeAreRefused : Obligations.FieldWidthsOutsideRangeAreRefused := by
  refine ⟨fun s hout => ?_, fun s h1 h32 hbyte hcap => exec_bsPut_fault h1 h32 ?_⟩
  · have hwidth : ¬ (1 ≤ s.port.nbits ∧ s.port.nbits ≤ 32) := by omega
    exact ⟨exec_bsPut_refused hwidth, exec_bsGet_refused hwidth⟩
  · rw [roomFor_iff, bytesOf]
    omega

/-! ## The first byte of a frame -/

/-- `BS_WINIT` (R185). -/
theorem exec_bsWinit (s : State) : exec .bsWinit s =
    .next (s.setE { s.e with bw := { acc := 0#32, res := 0, ptr := s.seq.frame * encBypf s } }) := rfl

/-- `BS_RINIT` (R189). -/
theorem exec_bsRinit (s : State) : exec .bsRinit s =
    .next (s.setD { s.d with
      br := { acc := 0#32, res := 0, ptr := s.seq.frame * decBypf s, rem := decBpf s } }) := rfl

/-- Settles O30: `BYPF` and `BPF` of a side are its rate by 50, in bytes and in bits. -/
theorem cursorsStartAtTheFramesFirstByte : Obligations.CursorsStartAtTheFramesFirstByte :=
  fun s => ⟨exec_bsWinit s, exec_bsRinit s⟩

end Sys2Proof.Machine
end

section
/-! PROOF. The transform engine (42_transform.md). What a stage writes at the two ends of a set; the four
transforms as the loops of R203, R208 and R209; and how a property of single elements goes through them. -/

namespace Sys2Proof.Machine

section

variable {α : Type} [Inhabited α] {N : Nat}

/-! ## One stage, set by set -/

/-- Element `o` of set `t` of `n` sets, found again from its index. -/
theorem position_in_set {span n t o : Nat} (hN : span * n = N) (ht : t < n) (ho : o < span) :
    t * span + o < N ∧ (t * span + o) / span = t ∧ (t * span + o) % span = o := by
  have hset : (t + 1) * span ≤ n * span := Nat.mul_le_mul_right span ht
  rw [Nat.add_mul, Nat.one_mul, Nat.mul_comm n, hN] at hset
  refine ⟨by omega, ?_, ?_⟩
  · rw [Nat.mul_comm, Nat.mul_add_div (by omega), Nat.div_eq_of_lt ho, Nat.add_zero]
  · rw [Nat.mul_comm, Nat.mul_add_mod, Nat.mod_eq_of_lt ho]

/-- Element `span - 1 - j`, the mirror image of element `j` of the lower half, stands in the upper half. -/
theorem mirror_in_set {span n t j : Nat} (hN : span * n = N) (ht : t < n) (hj : j < span / 2) :
    t * span + span - 1 - j < N ∧ (t * span + span - 1 - j) / span = t ∧
      (t * span + span - 1 - j) % span = span - 1 - j ∧ ¬ span - 1 - j < span / 2 ∧
      span - 1 - (span - 1 - j) = j := by
  have hend : t * span + span - 1 - j = t * span + (span - 1 - j) := by omega
  obtain ⟨hp, hdiv, hmod⟩ := position_in_set (o := span - 1 - j) hN ht (by omega)
  rw [hend]
  exact ⟨hp, hdiv, hmod, by omega, by omega⟩

/-- R203: the sums go up from the start of the set, the differences down from its end. -/
theorem vget_butterfly {s t j : Nat} (hN : N / 2 ^ s * 2 ^ s = N) (ht : t < 2 ^ s)
    (hj : j < N / 2 ^ s / 2) (sum dif : Nat → α → α → α) (x : Vector α N) :
    vget (butterfly sum dif s x) (t * (N / 2 ^ s) + j) =
      sum j (vget x (t * (N / 2 ^ s) + 2 * j)) (vget x (t * (N / 2 ^ s) + 2 * j + 1)) ∧
    vget (butterfly sum dif s x) (t * (N / 2 ^ s) + N / 2 ^ s - 1 - j) =
      dif j (vget x (t * (N / 2 ^ s) + 2 * j)) (vget x (t * (N / 2 ^ s) + 2 * j + 1)) := by
  constructor
  · obtain ⟨hp, hdiv, hmod⟩ := position_in_set (o := j) hN ht (by omega)
    simp only [butterfly, vget_vgen, if_pos hp, hdiv, hmod, if_pos hj]
  · obtain ⟨hp, hdiv, hmod, hhigh, hback⟩ := mirror_in_set hN ht hj
    simp only [butterfly, vget_vgen, if_pos hp, hdiv, hmod, if_neg hhigh, hback]

/-- R209: pair `j` of a set goes to element `j` and to element `span - 1 - j`, by the rotations of even or of
odd pairs. -/
theorem vget_rotation {s t j : Nat} (hN : N / 2 ^ s * 2 ^ s = N) (ht : t < 2 ^ s)
    (hj : j < N / 2 ^ s / 2) (rot : Rotations α) (table : Nat → Nat → α × α) (x : Vector α N) :
    let span := N / 2 ^ s
    let e := table span j
    let l := vget x (t * span + j)
    let h := vget x (t * span + span / 2 + j)
    vget (rotation rot table s x) (t * span + j) =
      (if j % 2 = 0 then rot.le e.1 e.2 l h else rot.lo e.1 e.2 l h) ∧
    vget (rotation rot table s x) (t * span + span - 1 - j) =
      (if j % 2 = 0 then rot.he e.1 e.2 l h else rot.ho e.1 e.2 l h) := by
  constructor
  · obtain ⟨hp, hdiv, hmod⟩ := position_in_set (o := j) hN ht (by omega)
    simp only [rotation, vget_vgen, if_pos hp, hdiv, hmod, if_pos hj]
  · obtain ⟨hp, hdiv, hmod, hhigh, hback⟩ := mirror_in_set hN ht hj
    simp only [rotation, vget_vgen, if_pos hp, hdiv, hmod, if_neg hhigh, hback]

/-- R209 as its loop goes: an even pair and the odd pair after it. -/
theorem vget_rotation_pairs {s t q : Nat} (hN : N / 2 ^ s * 2 ^ s = N) (hfour : N / 2 ^ s % 4 = 0)
    (ht : t < 2 ^ s) (hq : q < N / 2 ^ s / 4) (rot : Rotations α) (table : Nat → Nat → α × α)
    (x : Vector α N) :
    let span := N / 2 ^ s
    let half := span / 2
    let y := rotation rot table s x
    let le := vget x (t * span + 2 * q)
    let lo := vget x (t * span + 2 * q + 1)
    let he := vget x (t * span + half + 2 * q)
    let ho := vget x (t * span + half + 2 * q + 1)
    vget y (t * span + 2 * q) = rot.le (table span (2 * q)).1 (table span (2 * q)).2 le he ∧
    vget y (t * span + span - 1 - 2 * q) =
      rot.he (table span (2 * q)).1 (table span (2 * q)).2 le he ∧
    vget y (t * span + 2 * q + 1) =
      rot.lo (table span (2 * q + 1)).1 (table span (2 * q + 1)).2 lo ho ∧
    vget y (t * span + span - 2 - 2 * q) =
      rot.ho (table span (2 * q + 1)).1 (table span (2 * q + 1)).2 lo ho := by
  obtain ⟨hle, hhe⟩ := vget_rotation hN ht (j := 2 * q) (by omega) rot table x
  obtain ⟨hlo, hho⟩ := vget_rotation hN ht (j := 2 * q + 1) (by omega) rot table x
  have heven : 2 * q % 2 = 0 := by omega
  have hodd : ¬ (2 * q + 1) % 2 = 0 := by omega
  rw [if_pos heven] at hle hhe
  rw [if_neg hodd] at hlo hho
  have hend : t * (N / 2 ^ s) + N / 2 ^ s - 1 - (2 * q + 1) =
      t * (N / 2 ^ s) + N / 2 ^ s - 2 - 2 * q := by omega
  rw [hend] at hho
  exact ⟨hle, hhe, hlo, hho⟩

/-- R208, R214: column `k` of the core on group `g`. -/
theorem vget_partB {g k : Nat} (hg : g < N / 10) (hk : k < 10) (dot : (Nat → α) → (Nat → α) → α)
    (core : Nat → Nat → α) (x : Vector α N) :
    vget (partB dot core x) (10 * g + k) = dot (fun i => vget x (10 * g + i)) fun i => core i k := by
  have hp : 10 * g + k < N := by omega
  have hbase : (10 * g + k) / 10 * 10 = 10 * g := by omega
  have hmod : (10 * g + k) % 10 = k := by omega
  simp only [partB, vget_vgen, if_pos hp, hbase, hmod]

/-! ## The stages in their order -/

theorem partA_succ (sum dif : Nat → Nat → α → α → α) (s : Nat) (x : Vector α N) :
    partA sum dif (s + 1) x = butterfly (sum s) (dif s) s (partA sum dif s x) := by
  simp only [partA, List.range_succ, List.foldl_append, List.foldl_cons, List.foldl_nil]

/-- The part of part (c) that ends with stage `s`: stages `s + n - 1, ..., s`. -/
def partCFrom (rot : Rotations α) (table : Nat → Nat → α × α) (s n : Nat) (x : Vector α N) : Vector α N :=
  (List.range' s n).foldr (fun s y => rotation rot table s y) x

theorem partCFrom_zero (rot : Rotations α) (table : Nat → Nat → α × α) (n : Nat) (x : Vector α N) :
    partCFrom rot table 0 n x = partC rot table n x := by
  rw [partCFrom, partC, List.range_eq_range']

theorem partCFrom_none (rot : Rotations α) (table : Nat → Nat → α × α) (s : Nat) (x : Vector α N) :
    partCFrom rot table s 0 x = x := rfl

theorem partCFrom_succ (rot : Rotations α) (table : Nat → Nat → α × α) (s n : Nat) (x : Vector α N) :
    partCFrom rot table s (n + 1) x = rotation rot table s (partCFrom rot table (s + 1) n x) := rfl

/-- The three parts over any element type. -/
def threeParts (sum dif : Nat → Nat → α → α → α) (dot : (Nat → α) → (Nat → α) → α)
    (core : Nat → Nat → α) (rot : Rotations α) (table : Nat → Nat → α × α) (stages : Nat)
    (x : Vector α N) : Vector α N :=
  partC rot table stages (partB dot core (partA sum dif stages x))

/-- Every stage divides the block into sets of whole fours. -/
def SetsOfFours (N stages : Nat) : Prop :=
  ∀ s < stages, N / 2 ^ s * 2 ^ s = N ∧ N / 2 ^ s % 4 = 0

/-- The three parts go through the arrays of the rules' loops: part (a) cut short after `s` stages, and
part (c) with its last `s` stages left out. -/
theorem threeParts_staged {stages : Nat} (hsets : SetsOfFours N stages)
    (sum dif : Nat → Nat → α → α → α) (dot : (Nat → α) → (Nat → α) → α) (core : Nat → Nat → α)
    (rot : Rotations α) (table : Nat → Nat → α × α) (x : Vector α N) :
    StagedTransform N stages sum dif (fun z k => dot z fun i => core i k) rot table (vget x)
      (vget (threeParts sum dif dot core rot table stages x)) := by
  refine ⟨fun s => vget (partA sum dif s x),
    fun s => vget (partCFrom rot table s (stages - s) (partB dot core (partA sum dif stages x))),
    fun p _ => rfl, fun s hs t ht j hj => ?_, fun g hg k hk => ?_, fun s hs t ht q hq => ?_,
    fun p _ => ?_⟩
  · obtain ⟨hN, -⟩ := hsets s hs
    dsimp only
    rw [partA_succ]
    exact vget_butterfly hN ht hj _ _ _
  · dsimp only
    rw [Nat.sub_self, partCFrom_none]
    exact vget_partB hg hk dot core _
  · obtain ⟨hN, hfour⟩ := hsets s hs
    have hleft : stages - s = stages - (s + 1) + 1 := by omega
    dsimp only
    rw [hleft, partCFrom_succ]
    exact vget_rotation_pairs hN hfour ht hq rot table _
  · dsimp only
    rw [Nat.sub_zero, partCFrom_zero, threeParts]

/-! ## A property of single elements, through the whole transform -/

/-- The four rotations by `c` and `ms` keep a property of their two inputs. -/
def Rotations.Keeps (rot : Rotations α) (P : α → Prop) (c ms : α) : Prop :=
  ∀ l h, P l → P h → P (rot.le c ms l h) ∧ P (rot.he c ms l h) ∧ P (rot.lo c ms l h) ∧
    P (rot.ho c ms l h)

theorem partA_forall {P : α → Prop} {sum dif : Nat → Nat → α → α → α} {stages : Nat}
    (hsets : SetsOfFours N stages) (hsum : ∀ s j a b, P a → P b → P (sum s j a b))
    (hdif : ∀ s j a b, P a → P b → P (dif s j a b)) {x : Vector α N} (hx : ∀ i < N, P (vget x i)) :
    ∀ i < N, P (vget (partA sum dif stages x) i) := by
  induction stages with
  | zero => exact hx
  | succ s ih =>
    obtain ⟨hN, hfour⟩ := hsets s (Nat.lt_succ_self s)
    rw [partA_succ]
    exact butterfly_forall hN (by omega) (hsum s) (hdif s) (ih fun k hk => hsets k (Nat.lt_succ_of_lt hk))

theorem partCFrom_forall {P : α → Prop} {rot : Rotations α} {table : Nat → Nat → α × α} {s n : Nat}
    (hsets : SetsOfFours N (s + n))
    (hrot : ∀ k < s + n, ∀ j < N / 2 ^ k / 2,
      rot.Keeps P (table (N / 2 ^ k) j).1 (table (N / 2 ^ k) j).2)
    {x : Vector α N} (hx : ∀ i < N, P (vget x i)) :
    ∀ i < N, P (vget (partCFrom rot table s n x) i) := by
  induction n generalizing s with
  | zero => exact hx
  | succ n ih =>
    have hlt : s < s + (n + 1) := by omega
    have hnext : s + 1 + n = s + (n + 1) := by omega
    obtain ⟨hN, hfour⟩ := hsets s hlt
    rw [partCFrom_succ]
    exact rotation_forall hN (by omega) (hrot s hlt) (ih (hnext ▸ hsets) (hnext ▸ hrot))

/-- A property that the sums, the core and the rotations keep, the three parts keep. -/
theorem threeParts_forall {P : α → Prop} {sum dif : Nat → Nat → α → α → α}
    {dot : (Nat → α) → (Nat → α) → α} {core : Nat → Nat → α} {rot : Rotations α}
    {table : Nat → Nat → α × α} {stages : Nat} (hsets : SetsOfFours N stages) (hten : N % 10 = 0)
    (hsum : ∀ s j a b, P a → P b → P (sum s j a b)) (hdif : ∀ s j a b, P a → P b → P (dif s j a b))
    (hdot : ∀ f, (∀ i < 10, P (f i)) → ∀ k < 10, P (dot f fun i => core i k))
    (hrot : ∀ s < stages, ∀ j < N / 2 ^ s / 2,
      rot.Keeps P (table (N / 2 ^ s) j).1 (table (N / 2 ^ s) j).2)
    {x : Vector α N} (hx : ∀ i < N, P (vget x i)) :
    ∀ i < N, P (vget (threeParts sum dif dot core rot table stages x) i) := by
  rw [threeParts, ← partCFrom_zero]
  rw [← Nat.zero_add stages] at hsets hrot
  refine partCFrom_forall hsets hrot (partB_forall hten hdot (partA_forall ?_ hsum hdif hx))
  rwa [Nat.zero_add] at hsets

end

/-! ## The sets of the two modes -/

/-- The spans of a mode's stages are those of the rotation tables, multiples of 20 (R43, R203). -/
theorem span_of_stage (m : Mode) {s : Nat} (hs : s < m.log - 1) :
    m.blk / 2 ^ s * 2 ^ s = m.blk ∧ m.blk / 2 ^ s % 4 = 0 ∧
      m.blk / 2 ^ s ∈ [20, 40, 80, 160, 320, 640] := by
  cases m with
  | nb =>
    have h : ∀ s < 5, 320 / 2 ^ s * 2 ^ s = 320 ∧ 320 / 2 ^ s % 4 = 0 ∧
      320 / 2 ^ s ∈ [20, 40, 80, 160, 320, 640] := by decide
    exact h s hs
  | wb =>
    have h : ∀ s < 6, 640 / 2 ^ s * 2 ^ s = 640 ∧ 640 / 2 ^ s % 4 = 0 ∧
      640 / 2 ^ s ∈ [20, 40, 80, 160, 320, 640] := by decide
    exact h s hs

theorem setsOfFours (m : Mode) : SetsOfFours m.blk (m.log - 1) := fun _ hs =>
  ⟨(span_of_stage m hs).1, (span_of_stage m hs).2.1⟩

theorem blk_mod_ten (m : Mode) : m.blk % 10 = 0 := by cases m <;> rfl

/-! ## The four transforms as three parts -/

section

variable {N : Nat} (rom : Rom) (m : Mode)

theorem dctFwdFixed_eq (x : Vector I16 N) : dctFwdFixed rom m x =
    threeParts (fun _ _ => halfSum) (fun _ _ => halfDif) dotFixed (rom.i16.coreFwd m) rotFixed
      rom.i16.cosmsin (m.log - 1) x := rfl

theorem dctInvFixed_eq (x : Vector I16 N) : dctInvFixed rom m x =
    postCorrect rom m (threeParts (invSum (rom.fixedOnly.dither m)) (invDif (rom.fixedOnly.dither m))
      dotFixed (rom.i16.coreInv m) rotFixed rom.i16.cosmsin (m.log - 1) x) := rfl

theorem dctFloat_eq (core : Nat → Nat → FVal) (x : Vector FVal N) : dctFloat rom core m x =
    threeParts (fun _ _ => Config.fAdd) (fun _ _ => Config.fSub) dotFloat core rotFloat
      rom.flt.cosmsin (m.log - 1) x := rfl

/-- R211: in `NB` the bias is added and the sum clamped. -/
theorem vget_postCorrect_nb {p : Nat} (hp : p < N) (y : Vector I16 N) :
    vget (postCorrect rom .nb y) p =
      toI16 (sat16 ((vget y p).toInt + (vget rom.fixedOnly.synBias p).toInt)) := by
  simp only [postCorrect, vget_vgen, if_pos hp]

theorem postCorrect_wb (y : Vector I16 N) : postCorrect rom .wb y = y := rfl

theorem vget_rescale {p : Nat} (hp : p < N) (k : FVal) (y : Vector FVal N) :
    vget (rescale k y) p = Config.fMul (vget y p) k := by
  simp only [rescale, vget_vgen, if_pos hp]

end

/-- R213, R214, R217: `FLOAT` in stages, then rescaled. -/
theorem rescaled_dctFloat_staged (rom : Rom) (m : Mode) (core : Nat → Nat → FVal) (k : FVal)
    (x : Vector FVal m.blk) :
    ∃ y, StagedTransform m.blk (m.log - 1) (fun _ _ => Config.fAdd) (fun _ _ => Config.fSub)
        (fun z k => dotFloat z fun i => core i k) rotFloat rom.flt.cosmsin (vget x) y ∧
      ∀ p < m.blk, vget (rescale k (dctFloat rom core m x)) p = Config.fMul (y p) k :=
  ⟨_, dctFloat_eq rom m core x ▸ threeParts_staged (setsOfFours m) _ _ dotFloat core _ _ x,
    fun _ hp => vget_rescale hp _ _⟩

/-- Settles O34: the two kinds of stage at their addresses; each transform is the three parts in stages, with
its own arithmetic, and then the post-correction or the rescale. -/
theorem transformStagesAddressAsTheRulesWrite : Obligations.TransformStagesAddressAsTheRulesWrite := by
  refine ⟨fun α _ N s t j x sum dif hN _ ht hj => vget_butterfly hN ht hj sum dif x,
    fun α _ N s t q x rot table hN hfour ht hq => vget_rotation_pairs hN hfour ht hq rot table x,
    fun rom m x => ⟨?_, ?_⟩, fun rom m x => ⟨rescaled_dctFloat_staged rom m _ _ x,
      rescaled_dctFloat_staged rom m _ _ x⟩⟩
  · rw [dctFwdFixed_eq]
    exact threeParts_staged (setsOfFours m) _ _ dotFixed _ _ _ x
  · refine ⟨_, threeParts_staged (setsOfFours m) (invSum (rom.fixedOnly.dither m))
      (invDif (rom.fixedOnly.dither m)) dotFixed (rom.i16.coreInv m) rotFixed rom.i16.cosmsin x,
      fun p hp => ⟨?_, ?_⟩⟩
    · rintro rfl
      rw [dctInvFixed_eq, vget_postCorrect_nb rom hp, toI16_sat16, sat16]
    · rintro rfl
      rw [dctInvFixed_eq, postCorrect_wb]

end Sys2Proof.Machine
end

section
/-! PROOF. What the transform micro-operations write, and what they make of zeros (42_transform.md R201, R202,
R215, R221). The arithmetic of each backend takes zeros to zeros, and the three parts keep any property of
single elements that their arithmetic keeps. -/

namespace Sys2Proof.Machine

/-! ## `FIXED` arithmetic on zeros -/

theorem lmult_zero (a : I16) : lmult a 0#16 = 0#32 := by simp [lmult, toI32, sat32]

theorem zero_lmult (a : I16) : lmult 0#16 a = 0#32 := by simp [lmult, toI32, sat32]

theorem add32_zero_zero : add32 0#32 0#32 = 0#32 := by decide

theorem lmac_zero_zero (a : I16) : lmac 0#32 a 0#16 = 0#32 := by
  rw [lmac, lmult_zero, add32_zero_zero]

theorem lmac_zero_of_zero (a : I16) : lmac 0#32 0#16 a = 0#32 := by
  rw [lmac, zero_lmult, add32_zero_zero]

theorem round16_zero : round16 0#32 = 0#16 := by decide

/-- A rotation of two zeros is zero, whatever the two factors are. -/
theorem rotated_zero (c ms : I16) : round16 (lmac (lmult c 0#16) ms 0#16) = 0#16 := by
  rw [lmult_zero, lmac_zero_zero, round16_zero]

theorem rotFixed_keeps_zero (c ms : I16) : rotFixed.Keeps (fun v => v = 0#16) c ms := by
  rintro _ _ rfl rfl
  exact ⟨rotated_zero c (neg16 ms), rotated_zero ms c, rotated_zero c ms, rotated_zero ms (neg16 c)⟩

/-- Ten products with zeros add up to zero. -/
theorem dotFixed_zero {f : Nat → I16} (hf : ∀ i < 10, f i = 0#16) (c : Nat → I16) :
    dotFixed f c = 0#16 := by
  have hsum : (List.range 10).foldl (fun acc i => lmac acc (f i) (c i)) 0#32 = 0#32 := by
    refine List.foldlRecOn (motive := fun acc => acc = 0#32) _ _ rfl fun acc hacc i hi => ?_
    rw [hacc, hf i (List.mem_range.mp hi), lmac_zero_of_zero]
  rw [dotFixed, hsum, round16_zero]

theorem halfSum_zero : halfSum 0#16 0#16 = 0#16 := by decide

theorem halfDif_zero : halfDif 0#16 0#16 = 0#16 := by decide

theorem add16_zero_zero : add16 0#16 0#16 = 0#16 := by decide

theorem sub16_zero_zero : sub16 0#16 0#16 = 0#16 := by decide

/-- R206, R207 without dither. -/
theorem invSum_zero {dither : Nat → I16} (hd : ∀ i, dither i = 0#16) (s j : Nat) :
    invSum dither s j 0#16 0#16 = 0#16 := by
  simp only [invSum, hd, add16_zero_zero, halfSum_zero, ite_self]

theorem invDif_zero {dither : Nat → I16} (hd : ∀ i, dither i = 0#16) (s j : Nat) :
    invDif dither s j 0#16 0#16 = 0#16 := by
  simp only [invDif, hd, add16_zero_zero, sub16_zero_zero, halfDif_zero, ite_self]

/-- A `FIXED` transform of zeros is zero where its sums and differences of zeros are. -/
theorem threeParts_fixed_zero (m : Mode) {sum dif : Nat → Nat → I16 → I16 → I16}
    (hsum : ∀ s j, sum s j 0#16 0#16 = 0#16) (hdif : ∀ s j, dif s j 0#16 0#16 = 0#16)
    (core : Nat → Nat → I16) (table : Nat → Nat → I16 × I16) {x : Vector I16 m.blk}
    (hx : ∀ i < m.blk, vget x i = 0#16) :
    ∀ k < m.blk, vget (threeParts sum dif dotFixed core rotFixed table (m.log - 1) x) k = 0#16 := by
  refine threeParts_forall (P := fun v => v = 0#16) (setsOfFours m) (blk_mod_ten m) ?_ ?_
    (fun f hf k _ => dotFixed_zero hf _) (fun s _ j _ => rotFixed_keeps_zero _ _) hx
  · rintro s j _ _ rfl rfl
    exact hsum s j
  · rintro s j _ _ rfl rfl
    exact hdif s j

theorem dctFwdFixed_zero (rom : Rom) (m : Mode) {x : Vector I16 m.blk}
    (hx : ∀ i < m.blk, vget x i = 0#16) : ∀ k < m.blk, vget (dctFwdFixed rom m x) k = 0#16 := by
  rw [dctFwdFixed_eq]
  exact threeParts_fixed_zero m (fun _ _ => halfSum_zero) (fun _ _ => halfDif_zero) _ _ hx

/-- A dither table that is zero over the block is zero at every index a stage could name. -/
theorem dither_eq_zero {t : FixedTables} {m : Mode} (h : ∀ i < m.blk, t.dither m i = 0#16) (i : Nat) :
    t.dither m i = 0#16 := by
  rcases Nat.lt_or_ge i m.blk with hi | hi
  · exact h i hi
  · cases m with
    | nb => exact vget_of_ge _ hi
    | wb => exact vget_of_ge _ hi

theorem dctInvFixed_zero (rom : Rom) (m : Mode) {x : Vector I16 m.blk}
    (hdither : ∀ i < m.blk, rom.fixedOnly.dither m i = 0#16)
    (hbias : m = .nb → ∀ i < 320, vget rom.fixedOnly.synBias i = 0#16)
    (hx : ∀ i < m.blk, vget x i = 0#16) : ∀ k < m.blk, vget (dctInvFixed rom m x) k = 0#16 := by
  intro k hk
  have hd := dither_eq_zero hdither
  have hzero := threeParts_fixed_zero m (invSum_zero hd) (invDif_zero hd) (rom.i16.coreInv m)
    rom.i16.cosmsin hx k hk
  rw [dctInvFixed_eq]
  cases m with
  | nb =>
    rw [vget_postCorrect_nb rom hk, hzero, hbias rfl k hk]
    decide
  | wb => rw [postCorrect_wb, hzero]

/-- The tables that the `FIXED` inverse reads. -/
theorem dctInvFixed_congr {N : Nat} {rom rom' : Rom} {m : Mode}
    (hdither : rom.fixedOnly.dither m = rom'.fixedOnly.dither m)
    (hcore : rom.i16.coreInv m = rom'.i16.coreInv m) (htable : rom.i16.cosmsin = rom'.i16.cosmsin)
    (hbias : m = .nb → rom.fixedOnly.synBias = rom'.fixedOnly.synBias) (x : Vector I16 N) :
    dctInvFixed rom m x = dctInvFixed rom' m x := by
  rw [dctInvFixed_eq, dctInvFixed_eq, hdither, hcore, htable]
  cases m with
  | nb => rw [postCorrect, postCorrect, hbias rfl]
  | wb => rfl

/-! ## `FLOAT` arithmetic on zeros -/

/-- The value stands for the number 0. -/
def StandsForZero (v : FVal) : Prop := Config.fKind v = .number 0

theorem StandsForZero.fAdd {a b : FVal} (ha : StandsForZero a) (hb : StandsForZero b) :
    StandsForZero (Config.fAdd a b) := Config.fKind_fAdd_zero ha hb

theorem StandsForZero.fSub {a b : FVal} (ha : StandsForZero a) (hb : StandsForZero b) :
    StandsForZero (Config.fSub a b) := Config.fKind_fSub_zero ha hb

theorem rotFloat_keeps_zero {c ms : FVal} (hc : Config.fIsNumber c = true)
    (hms : Config.fIsNumber ms = true) : rotFloat.Keeps StandsForZero c ms := by
  intro l h hl hh
  have hcl := Config.fKind_fMul_zero hc hl
  have hch := Config.fKind_fMul_zero hc hh
  have hml := Config.fKind_fMul_zero hms hl
  have hmh := Config.fKind_fMul_zero hms hh
  exact ⟨StandsForZero.fSub hcl hmh, StandsForZero.fAdd hml hch, StandsForZero.fAdd hcl hmh,
    StandsForZero.fSub hml hch⟩

/-- Ten products of zeros and numbers add up to a zero. -/
theorem dotFloat_zero {f c : Nat → FVal} (hf : ∀ i < 10, StandsForZero (f i))
    (hc : ∀ i < 10, Config.fIsNumber (c i) = true) : StandsForZero (dotFloat f c) :=
  List.foldlRecOn (motive := StandsForZero) _ _ Config.fKind_toF_zero fun _ hacc i hi =>
    have hi := List.mem_range.mp hi
    hacc.fAdd (Config.fKind_zero_fMul (hf i hi) (hc i hi))

/-- The tables of a stage are those of a span that the ROM's condition names. -/
theorem cosmsin_number {rom : Rom} (hrom : floatFinite rom) (m : Mode) {s j : Nat} (hs : s < m.log - 1)
    (hj : j < m.blk / 2 ^ s / 2) :
    Config.fIsNumber (rom.flt.cosmsin (m.blk / 2 ^ s) j).1 = true ∧
      Config.fIsNumber (rom.flt.cosmsin (m.blk / 2 ^ s) j).2 = true := by
  obtain ⟨-, hrotation, -⟩ := hrom
  exact hrotation _ (span_of_stage m hs).2.2 j hj

/-- R215, R221: with finite tables a `FLOAT` transform and its rescale take zeros to zeros. -/
theorem rescaled_dctFloat_zero {rom : Rom} (hrom : floatFinite rom) (m : Mode)
    {core : Nat → Nat → FVal} (hcore : ∀ i < 10, ∀ k < 10, Config.fIsNumber (core i k) = true)
    {scale : FVal} (hscale : Config.fIsNumber scale = true) {x : Vector FVal m.blk}
    (hx : ∀ i < m.blk, StandsForZero (vget x i)) :
    ∀ k < m.blk, StandsForZero (vget (rescale scale (dctFloat rom core m x)) k) := by
  intro k hk
  rw [vget_rescale hk, dctFloat_eq]
  refine Config.fKind_zero_fMul ?_ hscale
  exact threeParts_forall (P := StandsForZero) (setsOfFours m) (blk_mod_ten m)
    (fun _ _ _ _ => StandsForZero.fAdd) (fun _ _ _ _ => StandsForZero.fSub)
    (fun f hf k hk => dotFloat_zero hf fun i hi => hcore i hi k hk)
    (fun s hs j hj => rotFloat_keeps_zero (cosmsin_number hrom m hs hj).1 (cosmsin_number hrom m hs hj).2)
    hx k hk

theorem dctFwdFloat_zero {rom : Rom} (hrom : floatFinite rom) (m : Mode) {x : Vector FVal m.blk}
    (hx : ∀ i < m.blk, StandsForZero (vget x i)) :
    ∀ k < m.blk, StandsForZero (vget (dctFwdFloat rom m x) k) := by
  have ⟨hcore, _, hscale, _⟩ := hrom
  exact rescaled_dctFloat_zero hrom m (fun i hi k hk => (hcore m i hi k hk).1) (hscale m).1 hx

theorem dctInvFloat_zero {rom : Rom} (hrom : floatFinite rom) (m : Mode) {x : Vector FVal m.blk}
    (hx : ∀ i < m.blk, StandsForZero (vget x i)) :
    ∀ k < m.blk, StandsForZero (vget (dctInvFloat rom m x) k) := by
  have ⟨hcore, _, hscale, _⟩ := hrom
  exact rescaled_dctFloat_zero hrom m (fun i hi k hk => (hcore m i hi k hk).2) (hscale m).2 hx

/-! ## The result registers -/

theorem vget_vtake_lt {α : Type} [Inhabited α] {n k i : Nat} (v : Vector α n) (hi : i < k) :
    vget (vtake v k) i = vget v i := by rw [vget_vtake, if_pos hi]

theorem vtake_eq_replicate {α : Type} [Inhabited α] {n k : Nat} {v : Vector α n} {a : α}
    (h : ∀ i < k, vget v i = a) : vtake v k = Vector.replicate k a :=
  vec_ext_vget fun i hi => by rw [vget_vtake_lt v hi, h i hi, vget_replicate, if_pos hi]

theorem vget_transformReg {α : Type} [Inhabited α] (m : Mode) (f : Vector α m.blk → Vector α m.blk)
    (src dst : Vector α 640) (k : Nat) :
    vget (transformReg m f src dst) k =
      if k < m.blk then vget (f (vtake src m.blk)) k else vget dst k := by
  rw [transformReg, vget_vfill]
  have hle := blk_le m
  congr 1
  exact propext ⟨And.left, fun h => ⟨h, Nat.lt_of_lt_of_le h hle⟩⟩

/-- A signal register with the transform of another one over its first `BLK` elements, in the build's backend. -/
def transformed (b : Backend) (m : Mode) (fx : Vector I16 m.blk → Vector I16 m.blk)
    (fl : Vector FVal m.blk → Vector FVal m.blk) (src dst : SigReg 640) : SigReg 640 :=
  dst.put b (transformReg m fx src.fx dst.fx) (transformReg m fl src.fl dst.fl)

section

variable {b : Backend} {m : Mode} {fx : Vector I16 m.blk → Vector I16 m.blk}
  {fl : Vector FVal m.blk → Vector FVal m.blk} {src dst : SigReg 640}

theorem transformed_fixed (hb : b = .fixed) : (transformed b m fx fl src dst).fl = dst.fl ∧
    ∀ k, vget (transformed b m fx fl src dst).fx k =
      if k < m.blk then vget (fx (vtake src.fx m.blk)) k else vget dst.fx k := by
  rw [transformed, hb, SigReg.put_fixed]
  exact ⟨rfl, vget_transformReg m fx src.fx dst.fx⟩

theorem transformed_float (hb : b = .float) : (transformed b m fx fl src dst).fx = dst.fx ∧
    ∀ k, vget (transformed b m fx fl src dst).fl k =
      if k < m.blk then vget (fl (vtake src.fl m.blk)) k else vget dst.fl k := by
  rw [transformed, hb, SigReg.put_float]
  exact ⟨rfl, vget_transformReg m fl src.fl dst.fl⟩

theorem transformed_fixed_lt (hb : b = .fixed) {k : Nat} (hk : k < m.blk) :
    vget (transformed b m fx fl src dst).fx k = vget (fx (vtake src.fx m.blk)) k := by
  rw [(transformed_fixed hb).2, if_pos hk]

theorem transformed_float_lt (hb : b = .float) {k : Nat} (hk : k < m.blk) :
    vget (transformed b m fx fl src dst).fl k = vget (fl (vtake src.fl m.blk)) k := by
  rw [(transformed_float hb).2, if_pos hk]

end

theorem exec_dct4Fwd (s : State) : exec .dct4Fwd s = .next (s.setW { s.w with
    coef := transformed s.build.backend s.e.mode (dctFwdFixed s.build.rom s.e.mode)
      (dctFwdFloat s.build.rom s.e.mode) s.w.x s.w.coef }) := rfl

theorem exec_dct4Inv (s : State) : exec .dct4Inv s = .next (s.setW { s.w with
    news := transformed s.build.backend s.d.mode (dctInvFixed s.build.rom s.d.mode)
      (dctInvFloat s.build.rom s.d.mode) s.w.coef s.w.news }) := rfl

/-- Settles O33: the result register of each direction, then zeros in each backend. -/
theorem transformsWriteOnlyTheirResult : Obligations.TransformsWriteOnlyTheirResult := by
  intro s
  refine ⟨⟨_, exec_dct4Fwd s, transformed_fixed, transformed_float, fun hb hx k hk => ?_,
      fun hb hrom hx k hk => ?_⟩,
    ⟨_, exec_dct4Inv s, transformed_fixed, transformed_float, fun hb hx => ⟨?_, ?_⟩,
      fun hb hrom hx k hk => ?_⟩⟩
  · rw [transformed_fixed_lt hb hk]
    exact dctFwdFixed_zero _ _ (fun i hi => (vget_vtake_lt _ hi).trans (hx i hi)) k hk
  · rw [transformed_float_lt hb hk]
    exact dctFwdFloat_zero hrom _ (fun i hi => (vget_vtake_lt s.w.x.fl hi).symm ▸ hx i hi) k hk
  · intro rom hdither hcore htable hbias k hk
    rw [transformed_fixed_lt hb hk, vtake_eq_replicate hx,
      dctInvFixed_congr hdither hcore htable hbias]
  · intro hdither hbias k hk
    rw [transformed_fixed_lt hb hk]
    exact dctInvFixed_zero _ _ hdither hbias (fun i hi => (vget_vtake_lt _ hi).trans (hx i hi)) k hk
  · rw [transformed_float_lt hb hk]
    exact dctInvFloat_zero hrom _ (fun i hi => (vget_vtake_lt s.w.coef.fl hi).symm ▸ hx i hi) k hk

end Sys2Proof.Machine
end

section
/-! PROOF. The window engine and the headroom shifter (43_window_overlap.md). Every register the three
micro-operations write is one fill of its first elements in the build's face; the block of a window is given by
its two halves, and the headroom shift by its peak. -/

namespace Sys2Proof.Machine

/-! ## A filled signal register -/

/-- A fill inside the array. -/
theorem vget_vfill_of_le {α : Type} [Inhabited α] {n k : Nat} (hn : n ≤ k) (v : Vector α k) (f : Nat → α) (i : Nat) :
    vget (vfill v n f) i = if i < n then f i else vget v i := by
  rcases Nat.lt_or_ge i n with hi | hi
  · rw [vget_vfill_lt v f hi (hi.trans_le hn), if_pos hi]
  · rw [vget_vfill_ge v f hi, if_neg hi.not_gt]

/-- A block is read in its two halves, and what stands behind it. -/
theorem read_halves {α : Type} (m : Mode) {r f old first second : Nat → α}
    (hr : ∀ i, r i = if i < m.blk then f i else old i)
    (hfirst : ∀ k < m.blk / 2, f k = first k) (hsecond : ∀ k, f (m.blk / 2 + k) = second k) :
    (∀ k < m.blk / 2, r k = first k) ∧ (∀ k < m.blk / 2, r (m.blk / 2 + k) = second k) ∧
      ∀ i, m.blk ≤ i → r i = old i := by
  refine ⟨fun k hk => ?_, fun k hk => ?_, fun i hi => ?_⟩
  · rw [hr, if_pos (by omega), hfirst k hk]
  · rw [hr, if_pos (by omega), hsecond k]
  · rw [hr, if_neg (by omega)]

/-- A signal register whose first `n` elements are rewritten in the build's face. -/
def filled {k : Nat} (b : Backend) (n : Nat) (fx : Nat → I16) (fl : Nat → FVal) (dst : SigReg k) :
    SigReg k :=
  dst.put b (vfill dst.fx n fx) (vfill dst.fl n fl)

section

variable {k n : Nat} {b : Backend} {fx : Nat → I16} {fl : Nat → FVal} {dst : SigReg k}

theorem filled_fixed (hb : b = .fixed) (hn : n ≤ k) : (filled b n fx fl dst).fl = dst.fl ∧
    ∀ i, vget (filled b n fx fl dst).fx i = if i < n then fx i else vget dst.fx i := by
  rw [filled, hb, SigReg.put_fixed]
  exact ⟨rfl, vget_vfill_of_le hn dst.fx fx⟩

theorem filled_float (hb : b = .float) (hn : n ≤ k) : (filled b n fx fl dst).fx = dst.fx ∧
    ∀ i, vget (filled b n fx fl dst).fl i = if i < n then fl i else vget dst.fl i := by
  rw [filled, hb, SigReg.put_float]
  exact ⟨rfl, vget_vfill_of_le hn dst.fl fl⟩

end

/-! ## The two halves of a folded and of an overlapped block (R242, R254) -/

section

variable {n p : Nat}

theorem foldFixed_first (win old new : Nat → I16) (hp : p < n / 2) : foldFixed win n old new p =
    round16 (lapAdd (win (n / 2 - 1 - p)) (old (n / 2 - 1 - p)) (win (n / 2 + p)) (old (n / 2 + p))) :=
  if_pos hp

theorem foldFixed_second (win old new : Nat → I16) (k : Nat) : foldFixed win n old new (n / 2 + k) =
    round16 (lapSub (win (n - 1 - k)) (new k) (win k) (new (n - 1 - k))) := by
  simp [foldFixed]

theorem foldFloat_first (win old new : Nat → FVal) (hp : p < n / 2) : foldFloat win n old new p =
    Config.fAdd (Config.fMul (win (n / 2 - 1 - p)) (old (n / 2 - 1 - p)))
      (Config.fMul (win (n / 2 + p)) (old (n / 2 + p))) :=
  if_pos hp

theorem foldFloat_second (win old new : Nat → FVal) (k : Nat) : foldFloat win n old new (n / 2 + k) =
    Config.fSub (Config.fMul (win (n - 1 - k)) (new k)) (Config.fMul (win k) (new (n - 1 - k))) := by
  simp [foldFloat]

theorem overlapFixed_first (win : Nat → I16) (post : I16) (v old : Nat → I16) (hp : p < n / 2) :
    overlapFixed win post n v old p =
      round16 (shl32 (lapAdd (win p) (v (n / 2 - 1 - p)) (win (n - 1 - p)) (old p)) post.toInt) :=
  if_pos hp

theorem overlapFixed_second (win : Nat → I16) (post : I16) (v old : Nat → I16) (k : Nat) :
    overlapFixed win post n v old (n / 2 + k) =
      round16 (shl32 (lapSub (win (n / 2 + k)) (v k) (win (n / 2 - 1 - k)) (old (n / 2 - 1 - k)))
        post.toInt) := by
  simp [overlapFixed]

theorem overlapFloat_first (win v old : Nat → FVal) (hp : p < n / 2) : overlapFloat win n v old p =
    Config.fAdd (Config.fMul (win p) (v (n / 2 - 1 - p))) (Config.fMul (win (n - 1 - p)) (old p)) :=
  if_pos hp

theorem overlapFloat_second (win v old : Nat → FVal) (k : Nat) :
    overlapFloat win n v old (n / 2 + k) =
      Config.fSub (Config.fMul (win (n / 2 + k)) (v k))
        (Config.fMul (win (n / 2 - 1 - k)) (old (n / 2 - 1 - k))) := by
  simp [overlapFloat]

end

/-! ## `WIN_ANA` -/

theorem exec_winAna (s : State) : exec .winAna s = .next ((s.setW { s.w with
      u := filled s.build.backend s.e.mode.blk
        (foldFixed (s.build.rom.i16.winAna s.e.mode) s.e.mode.blk (vget s.e.hist.fx) (vget s.w.pcm))
        (foldFloat (s.build.rom.flt.winAna s.e.mode) s.e.mode.blk (vget s.e.hist.fl)
          fun i => floatOfSample (vget s.w.pcm i)) s.w.u }).setE { s.e with
      hist := filled s.build.backend s.e.mode.blk (vget s.w.pcm)
        (fun i => floatOfSample (vget s.w.pcm i)) s.e.hist }) := rfl

/-- Settles O35: `W.U` and `E.HIST` are filled over the block, and each half of the folded block has its formula. -/
theorem winAnaFoldsTwoBlocksAndRetainsTheNew : Obligations.WinAnaFoldsTwoBlocksAndRetainsTheNew := by
  intro s
  have hblk := blk_le s.e.mode
  refine ⟨_, _, exec_winAna s, fun hb => ?_, fun hb => ?_⟩
  · obtain ⟨hface, hfold⟩ := filled_fixed (dst := s.w.u) hb hblk
    obtain ⟨hhist, hnew⟩ := filled_fixed (dst := s.e.hist) hb hblk
    obtain ⟨hfirst, hsecond, hrest⟩ := read_halves s.e.mode hfold
      (fun _ hk => foldFixed_first _ _ _ hk) (foldFixed_second _ _ _)
    exact ⟨hface, hhist, hfirst, hsecond, hrest, hnew⟩
  · obtain ⟨hface, hfold⟩ := filled_float (dst := s.w.u) hb hblk
    obtain ⟨hhist, hnew⟩ := filled_float (dst := s.e.hist) hb hblk
    obtain ⟨hfirst, hsecond, hrest⟩ := read_halves s.e.mode hfold
      (fun _ hk => foldFloat_first _ _ _ hk) (foldFloat_second _ _ _)
    exact ⟨hface, hhist, hfirst, hsecond, hrest, hnew⟩

/-! ## `WIN_SYN` -/

/-- R253: the shift that `W.MAGSH` records is undone. -/
theorem unshifted_eq (m : I16) (news : Nat → I16) : unshifted m news = fun i =>
    if 0 < m.toInt then shr16 (news i) m.toInt
    else if m.toInt < 0 then shl16 (news i) (-m.toInt) else news i := by
  funext i
  rw [unshifted, shiftBy]
  rcases lt_trichotomy m.toInt 0 with hm | hm | hm
  · rw [if_pos (by omega), if_neg (by omega), if_pos hm]
  · rw [if_neg (by omega), if_neg (by omega), if_neg (by omega), if_neg (by omega)]
  · rw [if_neg (by omega), if_pos (by omega), neg_neg, if_pos hm]

theorem exec_winSyn (s : State) {v : Nat → I16} (hv : unshifted s.w.magsh (vget s.w.news.fx) = v) :
    exec .winSyn s = .next ((s.setW { s.w with
      out := filled s.build.backend s.d.mode.blk
        (overlapFixed (s.build.rom.i16.winSyn s.d.mode) s.build.rom.fixedOnly.synPostshift s.d.mode.blk v
          (vget s.d.oldsamp.fx))
        (overlapFloat (s.build.rom.flt.winSyn s.d.mode) s.d.mode.blk (vget s.w.news.fl)
          (vget s.d.oldsamp.fl)) s.w.out }).setD { s.d with
      oldsamp := filled s.build.backend (s.d.mode.blk / 2) (fun k => v (s.d.mode.blk / 2 + k))
        (fun k => vget s.w.news.fl (s.d.mode.blk / 2 + k)) s.d.oldsamp }) := by
  subst hv
  rfl

/-- Settles O38: `W.OUT` is filled over the block, half by half, and `D.OLDSAMP` over a half. -/
theorem winSynOverlapsAndRetainsTheSecondHalf : Obligations.WinSynOverlapsAndRetainsTheSecondHalf := by
  intro s
  have hblk := blk_le s.d.mode
  have hhalf : s.d.mode.blk / 2 ≤ 320 := by omega
  refine ⟨_, _, exec_winSyn s (unshifted_eq _ _), fun hb => ?_, fun hb => ?_⟩
  · obtain ⟨hface, hout⟩ := filled_fixed (dst := s.w.out) hb hblk
    obtain ⟨hkeptFace, hkept⟩ := filled_fixed (dst := s.d.oldsamp) hb hhalf
    obtain ⟨hfirst, hsecond, hrest⟩ := read_halves s.d.mode hout
      (fun _ hk => overlapFixed_first _ _ _ _ hk) (overlapFixed_second _ _ _ _)
    exact ⟨hface, hkeptFace, hfirst, hsecond, hrest, fun k hk => (hkept k).trans (if_pos hk),
      fun k hk => (hkept k).trans (if_neg hk.not_gt)⟩
  · obtain ⟨hface, hout⟩ := filled_float (dst := s.w.out) hb hblk
    obtain ⟨hkeptFace, hkept⟩ := filled_float (dst := s.d.oldsamp) hb hhalf
    obtain ⟨hfirst, hsecond, hrest⟩ := read_halves s.d.mode hout
      (fun _ hk => overlapFloat_first _ _ _ hk) (overlapFloat_second _ _ _)
    exact ⟨hface, hkeptFace, hfirst, hsecond, hrest, fun k hk => (hkept k).trans (if_pos hk),
      fun k hk => (hkept k).trans (if_neg hk.not_gt)⟩

/-! ## Peak and sum of magnitudes (R248) -/

theorem abs16_range (a : I16) : 0 ≤ (abs16 a).toInt ∧ (abs16 a).toInt ≤ 32767 := by
  have hsat := sat16_range |a.toInt|
  have habs := abs_nonneg a.toInt
  rw [abs16_toInt]
  exact ⟨by rw [sat16]; omega, hsat.2⟩

section

variable (u : Nat → I16)

theorem peakOf_succ (n : Nat) : peakOf u (n + 1) = max (peakOf u n) (abs16 (u n)).toInt := by
  rw [peakOf, List.range_succ, List.foldl_append]
  rfl

theorem absSum_succ (n : Nat) : absSum u (n + 1) = add32 (absSum u n) (toI32 (abs16 (u n)).toInt) := by
  rw [absSum, List.range_succ, List.foldl_append]
  rfl

theorem abs16_le_peakOf {n i : Nat} (hi : i < n) : (abs16 (u i)).toInt ≤ peakOf u n := by
  induction n with
  | zero => omega
  | succ n ih =>
    rw [peakOf_succ]
    rcases Nat.lt_succ_iff_lt_or_eq.mp hi with hlt | rfl
    · exact (ih hlt).trans (le_max_left _ _)
    · exact le_max_right _ _

/-- The peak is a magnitude of the block, or the 0 the search starts with. -/
theorem peakOf_zero_or_attained (n : Nat) :
    peakOf u n = 0 ∨ ∃ i < n, (abs16 (u i)).toInt = peakOf u n := by
  induction n with
  | zero => exact .inl rfl
  | succ n ih =>
    rw [peakOf_succ]
    rcases max_choice (peakOf u n) (abs16 (u n)).toInt with hold | hnew
    · rw [hold]
      exact ih.imp_right fun ⟨i, hi, h⟩ => ⟨i, Nat.lt_succ_of_lt hi, h⟩
    · exact .inr ⟨n, Nat.lt_succ_self n, hnew.symm⟩

theorem peakOf_attained {n : Nat} (hn : 0 < n) : ∃ i < n, (abs16 (u i)).toInt = peakOf u n := by
  rcases peakOf_zero_or_attained u n with hzero | hatt
  · have hle := abs16_le_peakOf u hn
    have hnonneg := (abs16_range (u 0)).1
    exact ⟨0, hn, by omega⟩
  · exact hatt

/-- The sum of the magnitudes of a block, in the integers. -/
def magnitudeSum (n : Nat) : Int := ((List.range n).map fun i => (abs16 (u i)).toInt).sum

theorem magnitudeSum_succ (n : Nat) :
    magnitudeSum u (n + 1) = magnitudeSum u n + (abs16 (u n)).toInt :=
  List.sum_range_succ _ n

theorem magnitudeSum_range (n : Nat) : 0 ≤ magnitudeSum u n ∧ magnitudeSum u n ≤ 32767 * n := by
  induction n with
  | zero => exact ⟨le_rfl, le_rfl⟩
  | succ n ih =>
    have habs := abs16_range (u n)
    rw [magnitudeSum_succ]
    push_cast
    omega

/-- The `add32` chain does not saturate while the block is below 65536 samples. -/
theorem absSum_eq {n : Nat} (hn : n ≤ 65536) : absSum u n = toI32 (magnitudeSum u n) := by
  induction n with
  | zero => rfl
  | succ n ih =>
    have hsum := magnitudeSum_range u n
    have habs := abs16_range (u n)
    rw [absSum_succ, ih (by omega), add32, toI32_toInt (by omega) (by omega),
      toI32_toInt (by omega) (by omega), sat32_of_range (by omega) (by omega), magnitudeSum_succ]

end

/-! ## `HEADROOM` -/

theorem exec_headroom (s : State) : exec .headroom s = .next (s.setW { s.w with
    magsh := chosenShift s
    x := filled s.build.backend s.e.mode.blk
      (fun i => shiftBy (chosenShift s).toInt (vget s.w.u.fx i)) (vget s.w.u.fl) s.w.x }) := rfl

theorem chosenShift_fixed {s : State} (hb : s.build.backend = .fixed) : chosenShift s =
    headroomShift s.build.rom s.build.normZero (peakOf (vget s.w.u.fx) s.e.mode.blk)
      (absSum (vget s.w.u.fx) s.e.mode.blk) := by rw [chosenShift, hb]

/-- Settles O36: the sum of R248 is exact over a block, so the rule's own words give the shift; the peak is
attained since no block is empty. -/
theorem headroomWritesTheShiftAndTheShiftedBlock :
    Obligations.HeadroomWritesTheShiftAndTheShiftedBlock := by
  intro s
  have hblk := blk_le s.e.mode
  refine ⟨_, _, exec_headroom s, fun hb => ?_, fun hb => ?_⟩
  · obtain ⟨hface, hx⟩ := filled_fixed (dst := s.w.x) hb hblk
    have hshift := chosenShift_fixed hb
    have hsum := absSum_eq (vget s.w.u.fx) (hblk.trans (by norm_num))
    exact ⟨hshift, hshift.trans (congrArg _ hsum), hface, hx, fun i hi => abs16_le_peakOf _ hi,
      peakOf_attained _ (blk_pos _)⟩
  · obtain ⟨hface, hx⟩ := filled_float (dst := s.w.x) hb hblk
    exact ⟨chosenShift_float hb, hface, hx⟩

/-! ## The suggested constants (R249, R250) -/

/-- The seven constants that R249 suggests. -/
structure SuggestedHeadroom (k : FixedTables) : Prop where
  full : k.hrFull = 14000#16
  small : k.hrSmall = 438#16
  mul : k.hrMul = 9587#16
  shr : k.hrShr = 20#16
  zero : k.hrZero = 9#16
  bias : k.hrBias = 6#16
  avg : k.hrAvgShr = 7#16

theorem xl_toInt_of_range {x : I32} (hlo : -32768 ≤ x.toInt) (hhi : x.toInt ≤ 32767) :
    (xl x).toInt = x.toInt := by
  have hdvd := dvd_toInt_sub_xl x
  have hrange := toInt_range16 (xl x)
  omega

/-- The scaled peak of R249 is the exact quotient: nothing saturates below `HR_FULL`. -/
theorem scaledPeak_toInt {t : Int} (hlo : 0 ≤ t) (hhi : t ≤ 14000) :
    (xl (shr32 (lmult (toI16 t) 9587#16) 20)).toInt = 19174 * t / 1048576 := by
  have hprod : (lmult (toI16 t) 9587#16).toInt = 19174 * t := by
    rw [lmult_toInt, toI16_toInt (by omega) (by omega), show (9587#16).toInt = 9587 from rfl,
      sat32_of_range (by omega) (by omega)]
    omega
  have hshr : (shr32 (lmult (toI16 t) 9587#16) 20).toInt = 19174 * t / 1048576 := by
    rw [shr32_toInt_of_nonneg _ (by norm_num), hprod]
    rfl
  rw [xl_toInt_of_range (by omega) (by omega), hshr]

/-- A scaled peak of at most eight bits normalizes by 7 to 14 places, and six places fewer take the peak
itself no further than 28000: at each of the possible counts the bounds are linear. -/
theorem scaledPeak_headroom {t v : Int} {s : Nat} (hs : NormShift 14 v s) (hpos : 0 < v) (hle : v ≤ 255)
    (ht : 0 ≤ t) (hscale : 19174 * t < (v + 1) * 1048576) : 7 ≤ s ∧ s ≤ 14 ∧ t * 2 ^ (s - 6) ≤ 28000 := by
  obtain ⟨hreach, hfit⟩ := hs.ofPos hpos
  have hbound := hs.le
  interval_cases s <;> omega

/-- R250 before the average check. -/
theorem headroomBase_suggested {rom : Rom} (h : SuggestedHeadroom rom.fixedOnly) (normZero : I16)
    {peak : Int} (hlo : 0 ≤ peak) (hhi : peak ≤ 32767) :
    0 ≤ headroomBase rom normZero peak ∧ headroomBase rom normZero peak ≤ 9 ∧
      peak * 2 ^ (headroomBase rom normZero peak).toNat ≤ 32767 := by
  simp only [headroomBase, h.full, h.small, h.mul, h.shr, h.zero, h.bias,
    show (14000#16).toInt = 14000 from rfl, show (438#16).toInt = 438 from rfl,
    show (20#16).toInt = 20 from rfl, show (9#16).toInt = 9 from rfl, show (6#16).toInt = 6 from rfl]
  split
  next hfull => exact ⟨le_rfl, by norm_num, by simpa using hhi⟩
  next hfull =>
    obtain ⟨t, ht, hpt, htpos, htfull⟩ : ∃ t : Int, (if peak < 438 then peak + 1 else peak) = t ∧
        peak ≤ t ∧ 0 < t ∧ t < 14000 := by
      refine ⟨_, rfl, ?_⟩
      split <;> omega
    have hv := scaledPeak_toInt htpos.le htfull.le
    rw [ht]
    generalize xl (shr32 (lmult (toI16 t) 9587#16) 20) = v at hv
    split
    next hzero =>
      have hsmall : 19174 * t / 1048576 = 0 := by rw [← hv, hzero]; rfl
      exact ⟨by norm_num, le_rfl, show peak * 512 ≤ 32767 by omega⟩
    next hzero =>
      obtain ⟨s, hs, hnorm⟩ := norm16_normShift normZero hzero
      have hne : v.toInt ≠ 0 := fun h0 => hzero (BitVec.eq_of_toInt_eq h0)
      obtain ⟨hs7, hs14, hroom⟩ :=
        scaledPeak_headroom hnorm (by omega) (by omega) htpos.le (by omega)
      have hpeak : peak * 2 ^ (s - 6) ≤ t * 2 ^ (s - 6) :=
        mul_le_mul_of_nonneg_right hpt (by positivity)
      rw [hs, show ((s : Int) - 6).toNat = s - 6 by omega]
      exact ⟨by omega, by omega, by omega⟩

/-- Settles O37: the average check takes at most one off the shift of the table. -/
theorem suggestedHeadroomNeverSaturates : Obligations.SuggestedHeadroomNeverSaturates := by
  intro rom normZero peak asum hfull hsmall hmul hshr hzero hbias havg hlo hhi
  obtain ⟨hnonneg, hnine, hroom⟩ :=
    headroomBase_suggested ⟨hfull, hsmall, hmul, hshr, hzero, hbias, havg⟩ normZero hlo hhi
  obtain ⟨m, hm, hle, hge⟩ : ∃ m : Int, headroomShift rom normZero peak asum = toI16 m ∧
      m ≤ headroomBase rom normZero peak ∧ headroomBase rom normZero peak - 1 ≤ m := by
    refine ⟨_, rfl, ?_⟩
    split <;> omega
  rw [hm, toI16_toInt (by omega) (by omega)]
  refine ⟨by omega, by omega, le_trans ?_ hroom⟩
  exact mul_le_mul_of_nonneg_left
    (pow_le_pow_right₀ (by norm_num) (Int.toNat_le_toNat hle)) hlo

end Sys2Proof.Machine
end

section
/-! PROOF. The power estimator (44_region_power.md R271 to R274): the energy of a region as a clamped sum of
squares, its scaling to bit 15, and the search among the boundaries. -/

namespace Sys2Proof.Machine

/-! ## The energy of a region (R272) -/

/-- The sum of the squares of the first `n` coefficients of a region. -/
def squareSum (coef : Nat → I16) (r n : Nat) : Int :=
  ((List.range n).map fun j => (coef (20 * r + j)).toInt ^ 2).sum

theorem squareSum_succ (coef : Nat → I16) (r n : Nat) :
    squareSum coef r (n + 1) = squareSum coef r n + (coef (20 * r + n)).toInt ^ 2 := by
  simp [squareSum, List.range_succ]

theorem squareSum_nonneg (coef : Nat → I16) (r n : Nat) : 0 ≤ squareSum coef r n := by
  induction n with
  | zero => rfl
  | succ n ih => rw [squareSum_succ]; positivity

/-- A sum of squares never falls, so that saturating at each addition saturates the sum. -/
theorem lmac0_squares_toInt (coef : Nat → I16) (r n : Nat) :
    ((List.range n).foldl (fun acc j => lmac0 acc (coef (20 * r + j)) (coef (20 * r + j))) 0#32).toInt =
      min 2147483647 (squareSum coef r n) := by
  induction n with
  | zero => rfl
  | succ n ih =>
    have hsum := squareSum_nonneg coef r n
    have hsquare : 0 ≤ (coef (20 * r + n)).toInt ^ 2 := by positivity
    rw [List.range_succ, List.foldl_append, List.foldl_cons, List.foldl_nil, lmac0_toInt, ih, squareSum_succ,
      ← pow_two, sat32]
    omega

theorem energyFixed_toInt (coef : Nat → I16) (r : Nat) :
    (energyFixed coef r).toInt = min 2147483647 (squareSum coef r 20) := lmac0_squares_toInt coef r 20

theorem energyFixed_nonneg (coef : Nat → I16) (r : Nat) : 0 ≤ (energyFixed coef r).toInt := by
  have hsum := squareSum_nonneg coef r 20
  rw [energyFixed_toInt]
  omega

theorem energyFixed_zero {coef : Nat → I16} {r : Nat} (h : ∀ j < 20, coef (20 * r + j) = 0#16) :
    energyFixed coef r = 0#32 := by
  have hsum : squareSum coef r 20 = 0 := List.sum_eq_zero fun x hx => by
    obtain ⟨j, hj, rfl⟩ := List.mem_map.mp hx
    rw [h j (List.mem_range.mp hj)]
    rfl
  apply BitVec.eq_of_toInt_eq
  rw [energyFixed_toInt, hsum]
  rfl

/-! ## Scaling to bit 15 (R272) -/

/-- `p` is the place of the top bit of `x`. -/
def TopBit (x : Int) (p : Nat) : Prop := 2 ^ p ≤ x ∧ x < 2 ^ (p + 1)

theorem TopBit.pos {x : Int} {p : Nat} (h : TopBit x p) : 0 < x := lt_of_lt_of_le (by positivity) h.1

theorem exists_topBit {x : Int} (hpos : 0 < x) : ∃ p, TopBit x p := by
  lift x to Nat using hpos.le
  have hlo : 2 ^ Nat.log 2 x ≤ x := Nat.pow_log_le_self 2 (by omega)
  have hhi : x < 2 ^ (Nat.log 2 x + 1) := Nat.lt_pow_succ_log_self (by norm_num) x
  exact ⟨Nat.log 2 x, by exact_mod_cast hlo, by exact_mod_cast hhi⟩

theorem TopBit.le_of_lt {x : Int} {p k : Nat} (h : TopBit x p) (hx : x < 2 ^ (k + 1)) : p ≤ k := by
  have hlt : (2 : Int) ^ p < 2 ^ (k + 1) := h.1.trans_lt hx
  exact Nat.lt_succ_iff.mp ((pow_lt_pow_iff_right₀ (by norm_num)).mp hlt)

theorem TopBit.le_thirty {x : I32} {p : Nat} (h : TopBit x.toInt p) : p ≤ 30 :=
  h.le_of_lt (by have hmax := toInt_range32 x; omega)

theorem TopBit.half {x : Int} {p : Nat} (h : TopBit x (p + 1)) : TopBit (x / 2) p := by
  obtain ⟨hlo, hhi⟩ := h
  rw [pow_succ] at hlo hhi
  exact ⟨by omega, by omega⟩

theorem TopBit.double {x : Int} {p : Nat} (h : TopBit x p) : TopBit (x * 2) (p + 1) := by
  obtain ⟨hlo, hhi⟩ := h
  exact ⟨by rw [pow_succ]; omega, by rw [pow_succ]; omega⟩

/-- The first loop's test: bits 16 to 30 are clear. -/
theorem and_highMask_eq_zero {acc : I32} (h : 0 ≤ acc.toInt) :
    acc &&& 0x7FFF0000#32 = 0#32 ↔ acc.toInt < 65536 := by
  have hnat : acc.toInt = acc.toNat ∧ acc.toNat < 2 ^ 31 := by
    rw [BitVec.toInt_eq_toNat_cond] at h ⊢
    omega
  have hmask : ∀ i < 32, (0x7FFF0000#32).getLsbD i = decide (16 ≤ i ∧ i < 31) := by decide
  constructor
  · intro hzero
    by_contra hbig
    obtain ⟨i, hi, hbit⟩ := Nat.exists_ge_and_testBit_of_ge_two_pow (x := acc.toNat) (n := 16) (by omega)
    have hi31 : i < 31 := by
      by_contra hge
      rw [Nat.testBit_lt_two_pow (hnat.2.trans_le (Nat.pow_le_pow_right (by norm_num) (by omega)))] at hbit
      cases hbit
    have hand : (acc &&& 0x7FFF0000#32).getLsbD i = true := by
      rw [BitVec.getLsbD_and, hmask i (by omega), BitVec.getLsbD, hbit]
      simpa using ⟨hi, hi31⟩
    rw [hzero] at hand
    simp at hand
  · intro hsmall
    apply BitVec.eq_of_getLsbD_eq
    intro i hi
    rw [BitVec.getLsbD_and, hmask i hi, BitVec.getLsbD_zero]
    by_cases h16 : 16 ≤ i
    · have hclear : acc.getLsbD i = false :=
        Nat.testBit_lt_two_pow
          (lt_of_lt_of_le (b := 2 ^ 16) (by omega) (Nat.pow_le_pow_right (by norm_num) h16))
      rw [hclear, Bool.false_and]
    · simp [h16]

theorem bringDown_stop {acc : I32} (h0 : 0 ≤ acc.toInt) (h : acc.toInt < 65536) (fuel : Nat) (ps : Int) :
    bringDown fuel acc ps = (acc, ps) := by
  cases fuel with
  | zero => rfl
  | succ fuel => rw [bringDown, if_neg (not_not.mpr ((and_highMask_eq_zero h0).mpr h))]

/-- The first loop halves a value with its top bit `k` places above bit 15 in `k` passes. -/
theorem bringDown_spec {k : Nat} {acc : I32} (hp : TopBit acc.toInt (15 + k)) {fuel : Nat} (hk : k ≤ fuel)
    (ps : Int) : ∃ u, bringDown fuel acc ps = (u, ps + k) ∧ u.toInt = acc.toInt / 2 ^ k := by
  induction k generalizing acc fuel ps with
  | zero => exact ⟨acc, by rw [bringDown_stop hp.pos.le hp.2]; simp, by simp⟩
  | succ k ih =>
    obtain ⟨f, rfl⟩ : ∃ f, fuel = f + 1 := ⟨fuel - 1, by omega⟩
    have hbig : (65536 : Int) ≤ acc.toInt :=
      le_trans (pow_le_pow_right₀ (by norm_num) (by omega) : (2 : Int) ^ 16 ≤ 2 ^ (15 + (k + 1))) hp.1
    have hhalf : (shr32 acc 1).toInt = acc.toInt / 2 := shr32_toInt_of_nonneg acc (by norm_num)
    have hhigh : acc &&& 0x7FFF0000#32 ≠ 0#32 := fun h => by
      have hsmall := (and_highMask_eq_zero hp.pos.le).mp h
      omega
    obtain ⟨u, hloop, hu⟩ :=
      ih (acc := shr32 acc 1) (by rw [hhalf]; exact hp.half) (fuel := f) (by omega) (ps + 1)
    refine ⟨u, ?_, ?_⟩
    · rw [bringDown, if_pos hhigh, hloop]
      push_cast
      ring_nf
    · rw [hu, hhalf, Int.ediv_ediv_of_nonneg (by norm_num), pow_succ']

theorem bringUp_stop {acc : I32} (h : 32768 ≤ acc.toInt) (fuel : Nat) (ps : Int) :
    bringUp fuel acc ps = (acc, ps) := by
  cases fuel with
  | zero => rfl
  | succ fuel => rw [bringUp, if_neg (by omega)]

/-- The second loop doubles a value with its top bit `k` places below bit 15 in `k` passes. -/
theorem bringUp_spec {k q : Nat} (hq : q + k = 15) {acc : I32} (hp : TopBit acc.toInt q) {fuel : Nat}
    (hk : k ≤ fuel) {ps : Int} (hps : k ≤ ps + 16) :
    ∃ u, bringUp fuel acc ps = (u, ps - k) ∧ u.toInt = acc.toInt * 2 ^ k := by
  induction k generalizing q acc fuel ps with
  | zero =>
    obtain rfl : q = 15 := by omega
    exact ⟨acc, by rw [bringUp_stop hp.1]; simp, by simp⟩
  | succ k ih =>
    obtain ⟨f, rfl⟩ : ∃ f, fuel = f + 1 := ⟨fuel - 1, by omega⟩
    have hsmall : acc.toInt < 32768 :=
      lt_of_lt_of_le hp.2 (pow_le_pow_right₀ (by norm_num) (by omega) : (2 : Int) ^ (q + 1) ≤ 2 ^ 15)
    have hdouble : (shl32 acc 1).toInt = acc.toInt * 2 := by
      have hpos := hp.pos
      rw [shl32_toInt_of_nonneg acc (by norm_num), Int.toNat_one, pow_one,
        sat32_of_range (by omega) (by omega)]
    obtain ⟨u, hloop, hu⟩ := ih (q := q + 1) (by omega) (acc := shl32 acc 1)
      (by rw [hdouble]; exact hp.double) (fuel := f) (by omega) (ps := ps - 1) (by push_cast at hps; omega)
    refine ⟨u, ?_, ?_⟩
    · rw [bringUp, if_pos ⟨by omega, by push_cast at hps; omega⟩, hloop]
      push_cast
      ring_nf
    · rw [hu, hdouble, pow_succ']
      ring

/-- A value whose top bit is brought to bit 15 is scaled to 16 bits, and its exponent is the bit's place less
15. -/
theorem scaled_spec {energy : I32} {p : Nat} (hp : TopBit energy.toInt p) :
    ∃ u, bringUp 31 (bringDown 15 energy 0).1 (bringDown 15 energy 0).2 = (u, (p : Int) - 15) ∧
      (57926 ≤ u.toInt ↔ 57926 * 2 ^ p ≤ energy.toInt * 2 ^ 15) := by
  have h30 := hp.le_thirty
  rcases Nat.lt_or_ge p 15 with hlow | hhigh
  · obtain ⟨k, hk⟩ : ∃ k, p + k = 15 := ⟨15 - p, by omega⟩
    have hsmall : energy.toInt < 65536 :=
      lt_of_lt_of_le hp.2 (pow_le_pow_right₀ (by norm_num) (by omega) : (2 : Int) ^ (p + 1) ≤ 2 ^ 16)
    obtain ⟨u, hloop, hu⟩ := bringUp_spec hk hp (fuel := 31) (by omega) (ps := 0) (by omega)
    refine ⟨u, ?_, ?_⟩
    · rw [bringDown_stop hp.pos.le hsmall, hloop, Prod.mk.injEq]
      exact ⟨rfl, by omega⟩
    · rw [hu, ← hk, pow_add, mul_comm ((2 : Int) ^ p), ← mul_assoc]
      exact (mul_le_mul_iff_of_pos_right (by positivity)).symm
  · obtain ⟨k, rfl⟩ : ∃ k, p = 15 + k := ⟨p - 15, by omega⟩
    obtain ⟨u, hloop, hu⟩ := bringDown_spec hp (fuel := 15) (by omega) 0
    have hnormal : 32768 ≤ u.toInt := by
      rw [hu, Int.le_ediv_iff_mul_le (by positivity)]
      exact le_of_eq_of_le (by rw [pow_add]; norm_num) hp.1
    refine ⟨u, ?_, ?_⟩
    · rw [hloop, bringUp_stop hnormal, Prod.mk.injEq]
      exact ⟨rfl, by push_cast; omega⟩
    · rw [hu, Int.le_ediv_iff_mul_le (by positivity), pow_add, mul_comm ((2 : Int) ^ 15), ← mul_assoc]
      exact (mul_le_mul_iff_of_pos_right (by positivity)).symm

/-- R272: the exponent of an energy above 0. -/
theorem powerScale_of_topBit {energy : I32} {p : Nat} (hp : TopBit energy.toInt p) :
    powerScale energy =
      (p : Int) - 15 + (if 2 * 28963 * 2 ^ p ≤ energy.toInt * 2 ^ 15 then 1 else 0) := by
  obtain ⟨u, hscaled, hround⟩ := scaled_spec hp
  have hhalf : (shr32 u 1).toInt = u.toInt / 2 := shr32_toInt_of_nonneg u (by norm_num)
  simp only [powerScale, hscaled, hhalf]
  norm_num only [← hround]
  split_ifs <;> omega

theorem powerScale_zero : powerScale 0#32 = -16 := by decide

theorem powerScale_range {energy : I32} (h : 0 ≤ energy.toInt) :
    -16 ≤ powerScale energy ∧ powerScale energy ≤ 16 := by
  rcases h.eq_or_lt with hzero | hpos
  · rw [BitVec.eq_of_toInt_eq (x := energy) (y := 0#32) hzero.symm, powerScale_zero]
    norm_num
  · obtain ⟨p, hp⟩ := exists_topBit hpos
    have h30 := hp.le_thirty
    rw [powerScale_of_topBit hp]
    split_ifs <;> omega

/-! ## The search among the boundaries (R274) -/

/-- The search halves `lo .. hi` until one level is left, with the mean square not below the boundary under it
and below the one over it. -/
theorem boundSearch_spec (bound : Nat → FVal) (ms : FVal) (k : Nat) {lo hi : Nat} (hspan : hi = lo + 2 ^ k)
    (hlo : 0 < lo → Config.fLt ms (bound (lo - 1)) = false)
    (hhi : hi < 64 → Config.fLt ms (bound (hi - 1)) = true) :
    lo ≤ boundSearch bound ms k lo hi ∧ boundSearch bound ms k lo hi < hi ∧
      (0 < boundSearch bound ms k lo hi →
        Config.fLt ms (bound (boundSearch bound ms k lo hi - 1)) = false) ∧
      (boundSearch bound ms k lo hi + 1 < 64 →
        Config.fLt ms (bound (boundSearch bound ms k lo hi)) = true) := by
  induction k generalizing lo hi with
  | zero =>
    subst hspan
    exact ⟨le_rfl, by simp [boundSearch], hlo, hhi⟩
  | succ k ih =>
    have hmid : (lo + hi) / 2 = lo + 2 ^ k := by rw [hspan, pow_succ]; omega
    have hlast : hi = lo + 2 ^ k + 2 ^ k := by rw [hspan, pow_succ]; omega
    have hpos : 0 < 2 ^ k := by positivity
    rw [boundSearch, hmid]
    split
    next hbelow =>
      obtain ⟨hge, hlt, hunder, hover⟩ := ih (lo := lo) (hi := lo + 2 ^ k) rfl hlo fun _ => hbelow
      exact ⟨hge, by omega, hunder, hover⟩
    next habove =>
      obtain ⟨hge, hlt, hunder, hover⟩ := ih (lo := lo + 2 ^ k) hlast (fun _ => by simpa using habove) hhi
      exact ⟨by omega, hlt, hunder, hover⟩

/-! ## `PWR_EST` -/

/-- The raw index of a region (R273 in `FIXED`, R274 in `FLOAT`). -/
def rawIndex (s : State) : Nat → I16 :=
  match s.build.backend with
  | .fixed => rawIndexFixed (vget s.w.coef.fx) s.w.magsh
  | .float => rawIndexFloat s.build.rom (vget s.w.coef.fl)

theorem rawIndex_fixed {s : State} (hb : s.build.backend = .fixed) :
    rawIndex s = rawIndexFixed (vget s.w.coef.fx) s.w.magsh := by rw [rawIndex, hb]

theorem rawIndex_float {s : State} (hb : s.build.backend = .float) :
    rawIndex s = rawIndexFloat s.build.rom (vget s.w.coef.fl) := by rw [rawIndex, hb]

theorem exec_pwrEst (s : State) : exec .pwrEst s =
    .next (s.setW { s.w with abs := vfill s.w.abs s.e.mode.nreg (rawIndex s) }) := rfl

theorem rawIndexFixed_toInt (coef : Nat → I16) {magsh : I16} (hlo : -100 ≤ magsh.toInt)
    (hhi : magsh.toInt ≤ 100) (r : Nat) : (rawIndexFixed coef magsh r).toInt =
      powerScale (energyFixed coef r) - 2 * magsh.toInt + 11 := by
  obtain ⟨hge, hle⟩ := powerScale_range (energyFixed_nonneg coef r)
  rw [rawIndexFixed, numNeg, toI16_toInt (by omega) (by omega)]
  ring

/-- The level of a mean square among the 63 boundaries (R274). -/
theorem rawIndexFloat_level (rom : Rom) (coef : Nat → FVal) (r : Nat) :
    ∃ j : Nat, j ≤ 63 ∧ (rawIndexFloat rom coef r).toInt = (j : Int) - 24 ∧
      (0 < j → Config.fLt (meanSquare coef r) (vget rom.floatOnly.pwrBound (j - 1)) = false) ∧
      (j < 63 → Config.fLt (meanSquare coef r) (vget rom.floatOnly.pwrBound j) = true) := by
  obtain ⟨-, hlt, hunder, hover⟩ := boundSearch_spec (vget rom.floatOnly.pwrBound) (meanSquare coef r) 6
    (lo := 0) (hi := 64) rfl nofun nofun
  refine ⟨_, by omega, ?_, hunder, fun h => hover (by omega)⟩
  rw [rawIndexFloat, numNeg, toI16_toInt (by omega) (by omega)]

/-- Settles O39, one backend after the other. -/
theorem pwrEstWritesBoundedRawIndices : Obligations.PwrEstWritesBoundedRawIndices := by
  intro s
  have hindex (r : Nat) (hr : r < s.e.mode.nreg) :
      vget (vfill s.w.abs s.e.mode.nreg (rawIndex s)) r = rawIndex s r :=
    vget_vfill_lt _ _ hr (hr.trans_le (nreg_le _))
  refine ⟨_, exec_pwrEst s, fun r hr => vget_vfill_ge _ _ hr, fun hb hlo hhi r hr => ?_, fun hb r hr => ?_⟩
  · obtain ⟨hge, hle⟩ := powerScale_range (energyFixed_nonneg (vget s.w.coef.fx) r)
    rw [hindex r hr, rawIndex_fixed hb]
    refine ⟨_, hge, hle, rfl, rawIndexFixed_toInt _ hlo hhi r, fun hzero => ?_, fun p => ?_⟩
    · rw [energyFixed_zero hzero, powerScale_zero]
    · intro energy hlow hhigh
      have henergy : (energyFixed (vget s.w.coef.fx) r).toInt = energy := energyFixed_toInt _ r
      have htop : TopBit (energyFixed (vget s.w.coef.fx) r).toInt p := by
        rw [henergy]
        exact ⟨hlow, hhigh⟩
      rw [powerScale_of_topBit htop, henergy]
  · obtain ⟨j, hj, hlevel, hunder, hover⟩ := rawIndexFloat_level s.build.rom (vget s.w.coef.fl) r
    rw [hindex r hr, rawIndex_float hb]
    exact ⟨by omega, by omega, j, hj, hlevel, hunder, hover⟩

end Sys2Proof.Machine
end

section
/-! PROOF. The envelope's indices (44_region_power.md R276 to R280): the valley raise as one equation for each
index, what clamping and coding make of raised indices, and `PWR_ADJ` and `PWR_ENC`. -/

namespace Sys2Proof.Machine

/-! ## Elements of a list -/

section

variable {α : Type} [Inhabited α]

@[simp] theorem lget_cons_zero (a : α) (l : List α) : lget (a :: l) 0 = a := rfl

@[simp] theorem lget_cons_succ (a : α) (l : List α) (r : Nat) : lget (a :: l) (r + 1) = lget l r := rfl

end

theorem lget_map {α β : Type} [Inhabited α] [Inhabited β] (f : α → β) {l : List α} {r : Nat}
    (hr : r < l.length) : lget (l.map f) r = f (lget l r) := by
  rw [lget_of_lt _ (by simpa using hr), lget_of_lt l hr, List.getElem_map]

/-! ## The valley raise (R276) -/

theorem valleyRaise_cons_cons (a b : Int) (l : List Int) : valleyRaise (a :: b :: l) =
    max a (lget (valleyRaise (b :: l)) 0 - 11) :: valleyRaise (b :: l) := by
  obtain ⟨c, m, hraised⟩ : ∃ c m, valleyRaise (b :: l) = c :: m := by
    unfold valleyRaise
    split <;> exact ⟨_, _, rfl⟩
  rw [valleyRaise, hraised]
  rfl

@[simp] theorem length_valleyRaise (l : List Int) : (valleyRaise l).length = l.length := by
  induction l with
  | nil => rfl
  | cons a l ih =>
    cases l with
    | nil => rfl
    | cons b l => rw [valleyRaise_cons_cons, List.length_cons, ih, List.length_cons (a := a)]

/-- The highest region keeps its index. -/
theorem lget_valleyRaise_last {l : List Int} {r : Nat} (hr : r + 1 = l.length) :
    lget (valleyRaise l) r = lget l r := by
  induction l generalizing r with
  | nil => simp at hr
  | cons a l ih =>
    cases l with
    | nil => obtain rfl : r = 0 := by simpa using hr
             rfl
    | cons b l =>
      obtain ⟨q, rfl⟩ : ∃ q, r = q + 1 := ⟨r - 1, by simp at hr; omega⟩
      rw [valleyRaise_cons_cons, lget_cons_succ, lget_cons_succ, ih (by simpa using hr)]

/-- Every other region's index is raised to the raised one above it less `DRP_MAX`. -/
theorem lget_valleyRaise_of_lt {l : List Int} {r : Nat} (hr : r + 1 < l.length) :
    lget (valleyRaise l) r = max (lget l r) (lget (valleyRaise l) (r + 1) - 11) := by
  induction l generalizing r with
  | nil => simp at hr
  | cons a l ih =>
    cases l with
    | nil => simp at hr
    | cons b l =>
      rw [valleyRaise_cons_cons]
      cases r with
      | zero => rfl
      | succ q => simpa using ih (r := q) (by simpa using hr)

theorem valleyRaise_eq_self {l : List Int} (h : ∀ r, r + 1 < l.length → lget l (r + 1) - lget l r ≤ 11) :
    valleyRaise l = l := by
  induction l with
  | nil => rfl
  | cons a l ih =>
    cases l with
    | nil => rfl
    | cons b l =>
      have hfirst : b - a ≤ 11 := h 0 (by simp)
      rw [valleyRaise_cons_cons, ih fun r hr => h (r + 1) (by simpa using hr), lget_cons_zero,
        max_eq_left (by omega)]

/-- Settles O41, from the equation of each index. -/
theorem valleyRaiseOnlyRaises : Obligations.ValleyRaiseOnlyRaises := by
  intro l
  refine ⟨length_valleyRaise l, fun r hr => ?_, fun r hr => ?_, valleyRaise_eq_self⟩
  · rcases Nat.lt_or_eq_of_le (Nat.succ_le_of_lt hr) with hlt | hlast
    · rw [lget_valleyRaise_of_lt hlt]
      exact le_max_left _ _
    · rw [lget_valleyRaise_last hlast]
  · have hraised := lget_valleyRaise_of_lt hr
    omega

/-! ## Clamping and coding (R277, R278) -/

@[simp] theorem length_clampIndices (l : List Int) : (clampIndices l).length = l.length := by
  cases l <;> simp [clampIndices]

theorem lget_clampIndices_zero {l : List Int} (h : 0 < l.length) :
    lget (clampIndices l) 0 = max (-8) (min 22 (lget l 0)) := by
  cases l with
  | nil => simp at h
  | cons a l => rfl

theorem lget_clampIndices_succ {l : List Int} {r : Nat} (hr : r + 1 < l.length) :
    lget (clampIndices l) (r + 1) = max (-17) (min 22 (lget l (r + 1))) := by
  cases l with
  | nil => simp at hr
  | cons a l => rw [clampIndices, lget_cons_succ, lget_map _ (by simpa using hr)]; rfl

theorem lget_envelopeSymbols_zero {l : List Int} (h : 0 < l.length) :
    lget (envelopeSymbols l) 0 = (lget l 0 + 9, lget l 0) := by
  cases l with
  | nil => simp at h
  | cons a l => rfl

/-- One region of the differential code: the symbol is the step up from the index before, at least -12, and the
next step starts from the index the decoder rebuilds. -/
theorem lget_diffCode {l : List Int} {r : Nat} (hr : r < l.length) (p : Int × Int) :
    lget (p :: diffCode p.2 l) (r + 1) =
      (max (lget l r - (lget (p :: diffCode p.2 l) r).2) (-12) + 12,
        max (lget l r) ((lget (p :: diffCode p.2 l) r).2 - 12)) := by
  induction l generalizing r p with
  | nil => simp at hr
  | cons a l ih =>
    cases r with
    | zero =>
      simp only [diffCode, drpMin, lget_cons_succ, lget_cons_zero, Prod.mk.injEq]
      omega
    | succ q =>
      exact ih (by simpa using hr) (_, p.2 + (max (a - p.2) drpMin - drpMin) + drpMin)

theorem lget_envelopeSymbols_succ {l : List Int} {r : Nat} (hr : r + 1 < l.length) :
    lget (envelopeSymbols l) (r + 1) =
      (max (lget l (r + 1) - (lget (envelopeSymbols l) r).2) (-12) + 12,
        max (lget l (r + 1)) ((lget (envelopeSymbols l) r).2 - 12)) := by
  cases l with
  | nil => simp at hr
  | cons a l => exact lget_diffCode (by simpa using hr) _

/-! ## `PWR_ADJ` -/

section

variable {l : List Int} {r : Nat}

theorem lget_adjustIndices_zero (h : 0 < l.length) : lget (adjustIndices l) 0 =
    (max (-8) (min 22 (lget (valleyRaise l) 0)) + 9, max (-8) (min 22 (lget (valleyRaise l) 0))) := by
  rw [adjustIndices, lget_envelopeSymbols_zero (by simpa using h), lget_clampIndices_zero (by simpa using h)]

theorem lget_adjustIndices_succ (hr : r + 1 < l.length) : lget (adjustIndices l) (r + 1) =
    (max (max (-17) (min 22 (lget (valleyRaise l) (r + 1))) - (lget (adjustIndices l) r).2) (-12) + 12,
      max (max (-17) (min 22 (lget (valleyRaise l) (r + 1)))) ((lget (adjustIndices l) r).2 - 12)) := by
  rw [adjustIndices, lget_envelopeSymbols_succ (by simpa using hr), lget_clampIndices_succ (by simpa using hr)]

/-- An adjusted index lies between the clamped raised index and 22. -/
theorem adjustIndices_range (hr : r < l.length) :
    max (-17) (min 22 (lget (valleyRaise l) r)) ≤ (lget (adjustIndices l) r).2 ∧
      (lget (adjustIndices l) r).2 ≤ 22 := by
  induction r with
  | zero => rw [lget_adjustIndices_zero hr]; dsimp only; omega
  | succ q ih =>
    obtain ⟨-, hhi⟩ := ih (by omega)
    rw [lget_adjustIndices_succ hr]
    dsimp only
    omega

/-- The raise leaves no step up above 11, the coding none down below -12: every later symbol is codable and
rebuilds its index. -/
theorem adjustIndices_codable (hr : r + 1 < l.length) :
    0 ≤ (lget (adjustIndices l) (r + 1)).1 ∧ (lget (adjustIndices l) (r + 1)).1 ≤ 23 ∧
      (lget (adjustIndices l) (r + 1)).2 =
        (lget (adjustIndices l) r).2 + (lget (adjustIndices l) (r + 1)).1 - 12 := by
  have hraised := lget_valleyRaise_of_lt hr
  obtain ⟨hlo, -⟩ := adjustIndices_range (l := l) (r := r) (by omega)
  rw [lget_adjustIndices_succ hr]
  dsimp only
  omega

/-- Every symbol fits the five bits of `W.SYM`. -/
theorem adjustIndices_symbol_range (hr : r < l.length) :
    0 ≤ (lget (adjustIndices l) r).1 ∧ (lget (adjustIndices l) r).1 < 32 := by
  cases r with
  | zero => rw [lget_adjustIndices_zero hr]; dsimp only; omega
  | succ q =>
    obtain ⟨hlo, hhi, -⟩ := adjustIndices_codable hr
    omega

end

/-- `W.ABS` after `PWR_ADJ` on the indices `l` (R276 to R278). -/
def adjustedAbs (l : List Int) (n : Nat) (abs : Vector I16 28) : Vector I16 28 :=
  vfill abs n fun r => toI16 (lget (adjustIndices l) r).2

/-- `W.SYM` after `PWR_ADJ` on the indices `l`. -/
def adjustedSym (l : List Int) (n : Nat) (sym : Vector (Fin 32) 28) : Vector (Fin 32) 28 :=
  vfill sym n fun r => Fin.ofNat 32 (lget (adjustIndices l) r).1.toNat

theorem exec_pwrAdj (s : State) : exec .pwrAdj s = .next (s.setW { s.w with
    abs := adjustedAbs (absList s.w s.e.mode.nreg) s.e.mode.nreg s.w.abs
    sym := adjustedSym (absList s.w s.e.mode.nreg) s.e.mode.nreg s.w.sym }) := rfl

theorem toInt_adjustedAbs {l : List Int} (h28 : l.length ≤ 28) (abs : Vector I16 28) {r : Nat}
    (hr : r < l.length) : (vget (adjustedAbs l l.length abs) r).toInt = (lget (adjustIndices l) r).2 := by
  obtain ⟨hlo, hhi⟩ := adjustIndices_range hr
  rw [adjustedAbs, vget_vfill_lt _ _ hr (by omega), toI16_toInt (by omega) (by omega)]

theorem val_adjustedSym {l : List Int} (h28 : l.length ≤ 28) (sym : Vector (Fin 32) 28) {r : Nat}
    (hr : r < l.length) :
    ((vget (adjustedSym l l.length sym) r).val : Int) = (lget (adjustIndices l) r).1 := by
  obtain ⟨hlo, hhi⟩ := adjustIndices_symbol_range hr
  rw [adjustedSym, vget_vfill_lt _ _ hr (by omega), Fin.val_ofNat, Nat.mod_eq_of_lt (by omega),
    Int.toNat_of_nonneg hlo]

@[simp] theorem length_absList (w : WorkRegs) (n : Nat) : (absList w n).length = n := by simp [absList]

theorem lget_absList (w : WorkRegs) {n r : Nat} (hr : r < n) :
    lget (absList w n) r = (vget w.abs r).toInt := by
  rw [absList, lget_map_range, if_pos hr]

/-- Settles O40: the adjusted list's equations, read in `W.ABS` and `W.SYM`. -/
theorem pwrAdjMakesTheEnvelopeCodable : Obligations.PwrAdjMakesTheEnvelopeCodable := by
  intro s
  have h28 := nreg_le s.e.mode
  have hpos := nreg_pos s.e.mode
  have hlen := length_absList s.w s.e.mode.nreg
  have hraw (r : Nat) (hr : r < s.e.mode.nreg) := lget_absList s.w hr
  rw [exec_pwrAdj]
  generalize s.e.mode.nreg = n at h28 hpos hlen hraw ⊢
  generalize absList s.w n = l at hlen hraw ⊢
  subst hlen
  have habs (r : Nat) (hr : r < l.length) := toInt_adjustedAbs h28 s.w.abs hr
  have hsym (r : Nat) (hr : r < l.length) := val_adjustedSym h28 s.w.sym hr
  have habs0 := habs 0 hpos
  have hsym0 := hsym 0 hpos
  rw [lget_adjustIndices_zero hpos] at habs0 hsym0
  dsimp only at habs0 hsym0
  refine ⟨_, _, rfl, fun r hr => ⟨vget_vfill_ge _ _ hr, vget_vfill_ge _ _ hr⟩, by omega, by omega,
    by omega, by omega, fun r hr => ?_, fun r hr => ?_, lget (valleyRaise l), ?_, fun r hr => ?_, habs0,
    fun r hr => ?_⟩
  · obtain ⟨hlo, hhi⟩ := adjustIndices_range hr
    rw [habs r hr]
    omega
  · obtain ⟨-, hhi, hnext⟩ := adjustIndices_codable hr
    have hstep := hsym (r + 1) hr
    rw [habs r (by omega), habs (r + 1) hr]
    omega
  · rw [lget_valleyRaise_last (by omega), hraw _ (by omega)]
  · rw [lget_valleyRaise_of_lt hr, hraw r (by omega)]
  · rw [habs r (by omega), habs (r + 1) hr, lget_adjustIndices_succ hr]

/-! ## `PWR_ENC` (R280) -/

/-- Settles O42: the envelope string is five bits and the codes of the later regions, one after the other. -/
theorem pwrEncConcatenatesTheCodes : Obligations.PwrEncConcatenatesTheCodes := by
  intro s
  have hlen := length_envelopeBits s.build.rom (fun r => (vget s.w.sym r).val) s.e.mode.nreg
  refine ⟨envelopeBits s.build.rom (fun r => (vget s.w.sym r).val) s.e.mode.nreg, ?_, hlen, ?_, ?_⟩
  · rw [exec_pwrEnc, envelopeCoded, hlen]
  · rw [envelopeBits, List.take_left' (length_bitsOf _ _)]
  · rw [envelopeBits, List.drop_left' (length_bitsOf _ _), List.flatMap_def]
    rfl

end Sys2Proof.Machine
end

section
/-! PROOF. `SD_SHIFT` (44_region_power.md R287, R288): the shift loop as a count of halvings, and the standard
deviations at the shift it picks. -/

namespace Sys2Proof.Machine

/-! ## The shift loop (R287) -/

/-- After `d` passes of the loop of R287 its condition fails. -/
def ShiftFits (temp maxi : Int) (d : Nat) : Prop := temp / 2 ^ d < 8 ∧ maxi - 2 * d ≤ 28

theorem shiftFits_succ (temp maxi : Int) (d : Nat) :
    ShiftFits (temp / 2) (maxi - 2) d ↔ ShiftFits temp maxi (d + 1) := by
  have hhalf : temp / 2 / 2 ^ d = temp / 2 ^ (d + 1) := by
    rw [Int.ediv_ediv_of_nonneg (by norm_num), pow_succ']
  have hrow : maxi - 2 - 2 * d = maxi - 2 * ((d + 1 : Nat) : Int) := by push_cast; ring
  rw [ShiftFits, ShiftFits, hhalf, hrow]

/-- The loop takes one off `m` for each pass: it stops at the first count of passes that fits, or below 0. -/
theorem shiftLoop_spec (fuel : Nat) {m : Int} (hm : m + 1 = fuel) (temp maxi : Int) :
    ∃ d ≤ fuel, shiftLoop fuel m temp maxi = m - d ∧ (d < fuel → ShiftFits temp maxi d) ∧
      ∀ k < d, ¬ ShiftFits temp maxi k := by
  induction fuel generalizing m temp maxi with
  | zero => exact ⟨0, le_rfl, by simp [shiftLoop], by omega, by omega⟩
  | succ fuel ih =>
    have hfits : ShiftFits temp maxi 0 ↔ ¬ (temp ≥ 8 ∨ maxi > 28) := by
      simp [ShiftFits]
    rw [shiftLoop]
    split
    next hgo =>
      obtain ⟨d, hd, hloop, hstop, hbefore⟩ :=
        ih (m := m - 1) (by push_cast at hm; omega) (temp / 2) (maxi - 2)
      refine ⟨d + 1, by omega, by rw [hloop]; push_cast; ring, fun hlt => ?_, fun k hk => ?_⟩
      · exact (shiftFits_succ temp maxi d).mp (hstop (by omega))
      · cases k with
        | zero => exact fun h => hfits.mp h hgo.2
        | succ k => exact fun h => hbefore k (by omega) ((shiftFits_succ temp maxi k).mpr h)
    next hstop =>
      exact ⟨0, by omega, by simp, fun _ => hfits.mpr fun h => hstop ⟨by omega, h⟩, by omega⟩

/-- At the shift `k`, 9 less the passes made, the loop's condition fails: the halved sum is below 8 and the copy
of the largest row at most 28. -/
def FitsAt (temp maxi k : Int) : Prop := temp / 2 ^ (9 - k).toNat < 8 ∧ maxi - 2 * (9 - k) ≤ 28

theorem fitsAt_iff (temp maxi : Int) (d : Nat) : FitsAt temp maxi (9 - d) ↔ ShiftFits temp maxi d := by
  rw [FitsAt, ShiftFits, show (9 : Int) - (9 - d) = d by ring, Int.toNat_natCast]

/-- The shift loop picks the largest shift from 9 down that fits, or -1 (R287). -/
theorem shiftLoop_largest (temp maxi : Int) :
    shiftLoop 10 9 temp maxi ≤ 9 ∧ -1 ≤ shiftLoop 10 9 temp maxi ∧
      (0 ≤ shiftLoop 10 9 temp maxi → FitsAt temp maxi (shiftLoop 10 9 temp maxi)) ∧
      ∀ k, shiftLoop 10 9 temp maxi < k → k ≤ 9 → ¬ FitsAt temp maxi k := by
  obtain ⟨d, hd, hloop, hstop, hbefore⟩ := shiftLoop_spec 10 (m := 9) rfl temp maxi
  rw [hloop]
  refine ⟨by omega, by omega, fun hnonneg => ?_, fun k hk h9 => ?_⟩
  · exact (fitsAt_iff temp maxi d).mpr (hstop (by omega))
  · obtain ⟨c, rfl⟩ : ∃ c : Nat, k = 9 - c := ⟨(9 - k).toNat, by omega⟩
    exact fun h => hbefore c (by omega) ((fitsAt_iff temp maxi c).mp h)

/-! ## `SD_SHIFT` -/

/-- The shift `SD_SHIFT` chooses (R287 in `FIXED`, R288 in `FLOAT`). -/
def sdShiftOf (s : State) : Int :=
  match s.build.backend with
  | .fixed => decoderShift (vget s.build.rom.i16.sd) (vget s.w.abs) s.d.mode.nreg
  | .float => 0

theorem sdShiftOf_fixed {s : State} (hb : s.build.backend = .fixed) :
    sdShiftOf s = decoderShift (vget s.build.rom.i16.sd) (vget s.w.abs) s.d.mode.nreg := by
  rw [sdShiftOf, hb]

theorem sdShiftOf_float {s : State} (hb : s.build.backend = .float) : sdShiftOf s = 0 := by rw [sdShiftOf, hb]

/-- `W.SD` after `SD_SHIFT` (R287 in `FIXED`, R288 in `FLOAT`). -/
def sdRead (s : State) : SigReg 28 :=
  filled s.build.backend s.d.mode.nreg
    (fun r => vget s.build.rom.i16.sd (powerRow (vget s.w.abs r) (sdShiftOf s)))
    (fun r => vget s.build.rom.flt.sd (powerRow (vget s.w.abs r) 0)) s.w.sd

theorem sdRead_fixed {s : State} (hb : s.build.backend = .fixed) : (sdRead s).fl = s.w.sd.fl ∧
    ∀ r, vget (sdRead s).fx r = if r < s.d.mode.nreg then
      vget s.build.rom.i16.sd (powerRow (vget s.w.abs r) (sdShiftOf s)) else vget s.w.sd.fx r :=
  filled_fixed hb (nreg_le _)

theorem sdRead_float {s : State} (hb : s.build.backend = .float) : (sdRead s).fx = s.w.sd.fx ∧
    ∀ r, vget (sdRead s).fl r = if r < s.d.mode.nreg then
      vget s.build.rom.flt.sd (powerRow (vget s.w.abs r) 0) else vget s.w.sd.fl r :=
  filled_float hb (nreg_le _)

theorem exec_sdShift (s : State) :
    exec .sdShift s = .next (s.setW { s.w with magsh := toI16 (sdShiftOf s), sd := sdRead s }) := rfl

/-- Settles O44: in `FIXED` the shift is the loop's, in `FLOAT` it is 0. -/
theorem sdShiftPicksTheLargestFittingShift : Obligations.SdShiftPicksTheLargestFittingShift := by
  intro s
  refine ⟨_, _, exec_sdShift s, fun hb => ?_, fun hb => ?_⟩
  · obtain ⟨hfl, hfx⟩ := sdRead_fixed hb
    obtain ⟨hle, hge, hfits, hlarger⟩ := shiftLoop_largest
      ((List.range s.d.mode.nreg).foldl
        (fun t r => add16 t (vget s.build.rom.i16.sd (powerRow (vget s.w.abs r) 0))) 0#16).toInt
      ((List.range s.d.mode.nreg).foldl (fun a r => max a (powerRow (vget s.w.abs r) 0)) 0 : Nat)
    have hshift := sdShiftOf_fixed hb
    rw [decoderShift] at hshift
    rw [← hshift] at hle hge hfits hlarger
    rw [toI16_toInt (by omega) (by omega)]
    refine ⟨hle, hge, hfits, hlarger, hfl, fun r hr => ?_, fun r hr => ?_⟩
    · rw [hfx, if_pos hr]
      rfl
    · rw [hfx, if_neg (by omega)]
  · obtain ⟨hfx, hfl⟩ := sdRead_float hb
    refine ⟨by rw [sdShiftOf_float hb]; rfl, hfx, fun r hr => ?_, fun r hr => ?_⟩
    · rw [hfl, if_pos hr]
      rfl
    · rw [hfl, if_neg (by omega)]

end Sys2Proof.Machine
end

section
/-! PROOF. A command one micro-operation at a time (47_frame_commands.md R371, R376, R380, R383): each part of
a frame sequence that answers is walked by steps from the phase it is entered at to the phase it is left for,
and the walks are joined over the frame, the frame loop and the command (log entry 8). -/

namespace Sys2Proof.Machine

/-! ## Steps one after another -/

theorem reaches_trans {m n : Nat} {s t u : State} (h : reaches m s t) (k : reaches n t u) :
    reaches (m + n) s u := by
  induction m generalizing s with
  | zero => cases h; rwa [Nat.zero_add]
  | succ m ih =>
    obtain ⟨v, hstep, hrest⟩ := h
    rw [Nat.succ_add]
    exact ⟨v, hstep, ih hrest⟩

/-- Some number of steps leads from a state to a state. -/
def Runs (s t : State) : Prop := ∃ n, reaches n s t

theorem Runs.refl (s : State) : Runs s s := ⟨0, rfl⟩

theorem Runs.trans {s t u : State} (h : Runs s t) (k : Runs t u) : Runs s u := by
  obtain ⟨m, h⟩ := h
  obtain ⟨n, k⟩ := k
  exact ⟨m + n, reaches_trans h k⟩

/-! ## Walks -/

/-- The micro-operations of the frame sequences: all but `IDLE` and `CMD_CHECK`. -/
abbrev IsFrameUop (i : Instr) : Prop := i.isCommand = false ∧ i ≠ .cmdCheck ∧ i ≠ .idle

theorem decodePhase_phaseOf {i : Instr} (hi : i.isCommand = false) : decodePhase (phaseOf i) = .ok i := by
  cases i with
  | init _ | setRate _ | encode _ | decode _ | fillIn _ | release _ => cases hi
  | _ => rfl

theorem phaseOf_ne_zero {i : Instr} (hi : IsFrameUop i) : phaseOf i ≠ 0x00#8 := fun h => by
  have hd := decodePhase_phaseOf hi.1
  rw [h] at hd
  exact hi.2.2 (eq_idle_of_decodePhase_zero hd)

/-- A micro-operation that answers is one step, from its phase to where the sequencer advances. -/
theorem turn_runs {i : Instr} (hi : IsFrameUop i) {s t : State} (h : turn i s = .next t) :
    Runs (goto i s) (advance i t) := by
  have hstep := step_phase (s := goto i s) (phaseOf_ne_zero hi) (decodePhase_phaseOf hi.1)
  rw [show exec i (goto i s) = .next t from h, thenDo_next] at hstep
  exact ⟨1, _, hstep, rfl⟩

/-- Where a part of a sequence answers, it keeps `P` and steps lead from its entry to the entry of what
follows. -/
def Walks (P : State → Prop) (enter : State → State) (m : State → Result) (leave : State → State) :
    Prop :=
  ∀ s t, P s → m s = .next t → P t ∧ Runs (enter s) (leave t)

section
variable {P : State → Prop} {enter mid leave : State → State}

theorem Walks.nil : Walks P leave (runAll []) leave := fun s t hs h => by
  cases h
  exact ⟨hs, .refl _⟩

theorem Walks.cons {m : State → Result} {ms : List (State → Result)} (h : Walks P enter m mid)
    (k : Walks P mid (runAll ms) leave) : Walks P enter (runAll (m :: ms)) leave := fun s t hs ht => by
  obtain ⟨u, hu, hrest⟩ := thenDo_eq_next.mp ht
  obtain ⟨hPu, hfirst⟩ := h s u hs hu
  obtain ⟨hPt, hlast⟩ := k u t hPu hrest
  exact ⟨hPt, hfirst.trans hlast⟩

/-- A write of the sequencer between two micro-operations is part of the step before it. -/
theorem Walks.act (f leave : State → State) (hf : ∀ s, P s → P (f s)) :
    Walks P (fun s => leave (f s)) (act f) leave := fun s t hs h => by
  cases h
  exact ⟨hf s hs, .refl _⟩

theorem Walks.turn {i : Instr} (hi : IsFrameUop i) (hP : Keeps P (turn i)) :
    Walks P (goto i) (turn i) (advance i) := fun s t hs h => ⟨hP s t hs h, turn_runs hi h⟩

theorem Walks.keeps {m : State → Result} (h : Walks P enter m leave) {s t : State} (ht : m s = .next t)
    (hs : P s) : P t := by
  obtain ⟨hPt, -⟩ := h s t hs ht
  exact hPt

theorem Walks.leave_eq {m : State → Result} {leave' : State → State} (h : Walks P enter m leave)
    (heq : ∀ t, P t → leave t = leave' t) : Walks P enter m leave' := fun s t hs ht => by
  obtain ⟨hPt, hrun⟩ := h s t hs ht
  exact ⟨hPt, heq t hPt ▸ hrun⟩

end

/-! ## The state during a command -/

/-- The command in `SEQ.CMD` runs `n` frames; side `D` has mode `m`. -/
structure InCommand (i : Instr) (n : Nat) (m : Mode) (s : State) : Prop where
  cmd : s.seq.cmd = wordOf i
  nframes : s.seq.nframes = n
  mode : s.d.mode = m

/-- Frame `f` of the command is running. -/
structure CommandFrame (i : Instr) (n : Nat) (m : Mode) (f : Nat) (s : State) : Prop
    extends InCommand i n m s where
  frame : s.seq.frame = f

theorem turn_seq {i : Instr} (hi : IsFrameUop i) {s t : State} (h : turn i s = .next t) :
    t.seq = (s.setPhase (phaseOf i)).seq := by
  obtain ⟨-, -, -, -, -, hseq⟩ := uop_leaves hi.1 hi.2.1 h
  exact hseq

theorem turn_keeps_dec_mode {i : Instr} (hi : IsFrameUop i) {s t : State} (h : turn i s = .next t) :
    t.d.mode = s.d.mode := by
  obtain ⟨-, -, hmode, -⟩ := uop_leaves_contexts hi.1 hi.2.1 h
  exact hmode

section
variable {c : Instr} {n f : Nat} {m : Mode}

theorem CommandFrame.keeps_turn {i : Instr} (hi : IsFrameUop i) : Keeps (CommandFrame c n m f) (turn i) := by
  intro s t hs h
  have hseq := turn_seq hi h
  exact ⟨⟨by rw [hseq]; exact hs.cmd, by rw [hseq]; exact hs.nframes,
    (turn_keeps_dec_mode hi h).trans hs.mode⟩, by rw [hseq]; exact hs.frame⟩

theorem CommandFrame.setW {s : State} (h : CommandFrame c n m f s) (w : WorkRegs) :
    CommandFrame c n m f (s.setW w) :=
  ⟨⟨h.cmd, h.nframes, h.mode⟩, h.frame⟩

theorem CommandFrame.runSide {s : State} (h : CommandFrame c n m f s) : runSide s = cmdSide (wordOf c) := by
  rw [Machine.runSide, h.cmd]

/-! ## A frame of `ENCODE` (R371) -/

theorem encodeFrame_walks : Walks (CommandFrame (.encode .enc) n m f) (goto .loadPcm) encodeFrame
    (enterEncodeFrame (f + 1)) := by
  have hturn (i : Instr) (hi : IsFrameUop i) :
      Walks (CommandFrame (.encode .enc) n m f) (goto i) (turn i) (advance i) :=
    .turn hi (CommandFrame.keeps_turn hi)
  have hcat : Walks (CommandFrame (.encode .enc) n m f) (goto .categorize) (turn .categorize)
      (goto .rateAdj) :=
    (hturn .categorize (by decide)).leave_eq fun t ht => by
      rw [advance, ht.runSide.trans (by decide : _ = Side.enc)]
  have hflush : Walks (CommandFrame (.encode .enc) n m f) (goto .bsFlush) (turn .bsFlush)
      (enterEncodeFrame (f + 1)) :=
    (hturn .bsFlush (by decide)).leave_eq fun t ht => by rw [advance, ht.frame]
  exact .cons (hturn .loadPcm (by decide)) <| .cons (hturn .winAna (by decide)) <|
    .cons (hturn .headroom (by decide)) <| .cons (hturn .dct4Fwd (by decide)) <|
    .cons (hturn .pwrEst (by decide)) <| .cons (hturn .pwrAdj (by decide)) <|
    .cons (hturn .pwrEnc (by decide)) <|
    .cons (.act encAvail (goto .categorize) fun _ hs => hs.setW _) <| .cons hcat <|
    .cons (hturn .rateAdj (by decide)) <| .cons (hturn .bsWinit (by decide)) <|
    .cons (hturn .pack (by decide)) <| .cons hflush .nil

/-! ## A frame of `DECODE` and of `FILL_IN` (R376, R383) -/

/-- Where the sequencer goes after the frame end of `DECODE` and `FILL_IN` (R380). -/
def enterNextFrame (s : State) : State :=
  if runsFillIn s then enterFillFrame (s.seq.frame + 1) s else enterDecodeFrame (s.seq.frame + 1) s

theorem CommandFrame.runsFillIn {s : State} (h : CommandFrame c n m f s) :
    runsFillIn s = (decodeCommand (wordOf c) == .ok (.fillIn .dec)) := by
  rw [Machine.runsFillIn, h.cmd]

theorem concealTail_walks : Walks (CommandFrame c n m f) (goto .conceal) concealTail enterNextFrame := by
  have hturn (i : Instr) (hi : IsFrameUop i) :
      Walks (CommandFrame c n m f) (goto i) (turn i) (advance i) :=
    .turn hi (CommandFrame.keeps_turn hi)
  exact .cons (hturn .conceal (by decide)) <| .cons (hturn .dct4Inv (by decide)) <|
    .cons (hturn .winSyn (by decide)) <| .cons (hturn .storePcm (by decide)) <|
    .cons (.act frameEnd enterNextFrame fun _ hs => ⟨⟨hs.cmd, hs.nframes, hs.mode⟩, hs.frame⟩) .nil

/-- The region loop (R380): from region `r` to the last. -/
theorem decodeRegions_walks (k r : Nat) (hk : r + k = m.nreg) :
    Walks (CommandFrame c n m f) (enterRegion r) (decodeRegions k r) (goto .frameCheck) := by
  have hkeep (i : Instr) (hi : IsFrameUop i) := CommandFrame.keeps_turn (c := c) (n := n) (m := m) (f := f) hi
  induction k generalizing r with
  | zero =>
    intro s t hs h
    cases h
    rw [enterRegion, hs.mode, if_neg (by omega)]
    exact ⟨hs, .refl _⟩
  | succ k ih =>
    intro s t hs h
    have h28 := nreg_le m
    obtain ⟨u, hvq, h⟩ := thenDo_eq_next.mp h
    obtain ⟨v, hnoise, hrest⟩ := thenDo_eq_next.mp h
    have hsr : CommandFrame c n m f (s.setRegion r) := ⟨⟨hs.cmd, hs.nframes, hs.mode⟩, hs.frame⟩
    have hu := hkeep .vqDec (by decide) _ u hsr hvq
    have hv := hkeep .noiseFill (by decide) u v hu hnoise
    have hregion : v.seq.region.val = r := by
      rw [turn_seq (i := .noiseFill) (by decide) hnoise, State.setPhase_seq,
        turn_seq (i := .vqDec) (by decide) hvq]
      exact Nat.mod_eq_of_lt (by omega)
    obtain ⟨ht, hlater⟩ := ih (r + 1) (by omega) v t hv hrest
    have hfirst := turn_runs (i := .vqDec) (by decide) hvq
    have hsecond := turn_runs (i := .noiseFill) (by decide) hnoise
    rw [advance, hregion] at hsecond
    rw [enterRegion, hs.mode, if_pos (by omega)]
    exact ⟨ht, hfirst.trans (hsecond.trans hlater)⟩

theorem decodeBody_walks :
    Walks (CommandFrame (.decode .dec) n m f) (goto .sdShift) decodeBody (goto .conceal) := by
  have hturn (i : Instr) (hi : IsFrameUop i) :
      Walks (CommandFrame (.decode .dec) n m f) (goto i) (turn i) (advance i) :=
    .turn hi (CommandFrame.keeps_turn hi)
  have hcat : Walks (CommandFrame (.decode .dec) n m f) (goto .categorize) (turn .categorize)
      (goto .catReplay) :=
    (hturn .categorize (by decide)).leave_eq fun t ht => by
      rw [advance, ht.runSide.trans (by decide : _ = Side.dec)]
  have hregions : Walks (CommandFrame (.decode .dec) n m f) (enterRegion 0)
      (fun t => decodeRegions t.d.mode.nreg 0 t) (goto .frameCheck) := fun s t hs h =>
    decodeRegions_walks _ 0 (by rw [hs.mode, Nat.zero_add]) s t hs h
  exact .cons (hturn .sdShift (by decide)) <|
    .cons (.act decAvail (goto .categorize) fun _ hs => hs.setW _) <| .cons hcat <|
    .cons (hturn .catReplay (by decide)) <| .cons hregions <| .cons (hturn .frameCheck (by decide)) .nil

theorem decodeFrame_walks : Walks (CommandFrame (.decode .dec) n m f)
    (fun s => goto .bsRinit (decodeFrameStart s)) decodeFrame (enterDecodeFrame (f + 1)) := by
  have hturn (i : Instr) (hi : IsFrameUop i) :
      Walks (CommandFrame (.decode .dec) n m f) (goto i) (turn i) (advance i) :=
    .turn hi (CommandFrame.keeps_turn hi)
  have hskip : Walks (CommandFrame (.decode .dec) n m f) (advance .pwrDec)
      (fun s => if headerFailed s then .next s else decodeBody s) (goto .conceal) := by
    intro s t hs h
    dsimp only at h
    rw [advance]
    split
    next hfail => rw [if_pos hfail] at h; cases h; exact ⟨hs, .refl _⟩
    next hgood => rw [if_neg hgood] at h; exact decodeBody_walks s t hs h
  have hnext : Walks (CommandFrame (.decode .dec) n m f) (goto .conceal) concealTail
      (enterDecodeFrame (f + 1)) :=
    concealTail_walks.leave_eq fun t ht => by rw [enterNextFrame, ht.runsFillIn, ht.frame]; rfl
  exact .cons (.act decodeFrameStart (goto .bsRinit) fun _ hs => hs.setW _) <|
    .cons (hturn .bsRinit (by decide)) <| .cons (hturn .pwrDec (by decide)) <| .cons hskip <|
    .cons hnext .nil

theorem fillFrame_walks : Walks (CommandFrame (.fillIn .dec) n m f)
    (fun s => goto .conceal (fillFrameStart s)) fillFrame (enterFillFrame (f + 1)) := by
  have hnext : Walks (CommandFrame (.fillIn .dec) n m f) (goto .conceal) concealTail
      (enterFillFrame (f + 1)) :=
    concealTail_walks.leave_eq fun t ht => by rw [enterNextFrame, ht.runsFillIn, ht.frame]; rfl
  exact .cons (.act fillFrameStart (goto .conceal) fun _ hs => hs.setW _) <| .cons hnext .nil

/-! ## The frame loop and the command (R380) -/

/-- Frames `f` to `f + k - 1`, each walked from its entry to the entry of the next one. -/
theorem frameLoop_walks {enter : Nat → State → State} {start : State → State} {frame : State → Result}
    (henter : ∀ f s, f < n → InCommand c n m s → enter f s = start (s.setFrame f))
    (hframe : ∀ f, Walks (CommandFrame c n m f) start frame (enter (f + 1))) (k f : Nat) (hk : f + k ≤ n) :
    Walks (InCommand c n m) (enter f) (frameLoop frame k f) (enter (f + k)) := by
  induction k generalizing f with
  | zero => intro s t hs h; cases h; exact ⟨hs, .refl _⟩
  | succ k ih =>
    intro s t hs h
    obtain ⟨u, hu, hrest⟩ := thenDo_eq_next.mp h
    obtain ⟨hin, hfirst⟩ := hframe f (s.setFrame f) u ⟨⟨hs.cmd, hs.nframes, hs.mode⟩, rfl⟩ hu
    obtain ⟨ht, hlater⟩ := ih (f + 1) (by omega) u t hin.toInCommand hrest
    rw [henter f s (by omega) hs, ← Nat.add_assoc, Nat.add_right_comm]
    exact ⟨ht, hfirst.trans hlater⟩

/-- All frames of a frame command are walked from frame 0 to the command's end. -/
theorem frames_walk {enter : Nat → State → State} {start finish : State → State}
    {frame : State → Result}
    (henter : ∀ f s, enter f s = if f < s.seq.nframes then start (s.setFrame f) else finish s)
    (hframe : ∀ f, Walks (CommandFrame c n m f) start frame (enter (f + 1))) :
    Walks (InCommand c n m) (enter 0) (frameLoop frame n 0) finish := by
  have hwalk := frameLoop_walks (fun f s hf hs => by rw [henter, hs.nframes, if_pos hf]) hframe n 0 (by omega)
  exact hwalk.leave_eq fun t ht => by rw [Nat.zero_add, henter, ht.nframes, if_neg (by omega)]

theorem encodeFrames_walk :
    Walks (InCommand (.encode .enc) n m) (enterEncodeFrame 0) (frameLoop encodeFrame n 0) finishEncode :=
  frames_walk (fun _ _ => rfl) fun _ => encodeFrame_walks

theorem decodeFrames_walk :
    Walks (InCommand (.decode .dec) n m) (enterDecodeFrame 0) (frameLoop decodeFrame n 0) finishDecode :=
  frames_walk (fun _ _ => rfl) fun _ => decodeFrame_walks

theorem fillFrames_walk :
    Walks (InCommand (.fillIn .dec) n m) (enterFillFrame 0) (frameLoop fillFrame n 0) finishDecode :=
  frames_walk (fun _ _ => rfl) fun _ => fillFrame_walks

/-- The frames of a frame command and its end. -/
theorem Walks.finish {P : State → Prop} {enter finish : State → State} {m : State → Result}
    (h : Walks P enter m finish) {s t : State} (hs : P s) (ht : thenDo (m s) (Machine.act finish) = .next t) :
    Runs (enter s) t := by
  obtain ⟨u, hu, hfin⟩ := thenDo_eq_next.mp ht
  cases hfin
  obtain ⟨-, hrun⟩ := h s u hs hu
  exact hrun

end

theorem exec_cmdCheck_error {s : State} {err : CmdErr} (h : checkCommand s.host.cmdWord s = .error err) :
    exec .cmdCheck s = .next (commandError err s) := by
  show execCmdCheck s = _
  rw [execCmdCheck, h]

theorem exec_cmdCheck_ok {s : State} {p : Instr × Nat} (h : checkCommand s.host.cmdWord s = .ok p) :
    exec .cmdCheck s = .next (beginCommand s.host.cmdWord p.2 s) := by
  show execCmdCheck s = _
  rw [execCmdCheck, h]

/-- The entry of a command's body: the whole body of a command of a context, the first phase of a frame
command. -/
def bodyEntry : Instr → State → State
  | .init side => initBody side
  | .setRate side => setRateBody side
  | .release side => releaseBody side
  | .encode _ => enterEncodeFrame 0
  | .decode _ => fun s => enterDecodeFrame 0 (clearRecord s)
  | .fillIn _ => fun s => enterFillFrame 0 (clearRecord s)
  | _ => goto .idle

theorem enterBody_of_decode {i : Instr} {s : State} (hphase : s.seq.phase ≠ 0x00#8)
    (hd : decodeCommand s.seq.cmd = .ok i) : enterBody s = bodyEntry i s := by
  rw [enterBody, if_neg hphase, hd]
  cases i <;> rfl

/-- A command whose word is the operand of `CMD_CHECK` steps through `CMD_CHECK` and, where that lets it pass,
on from the entry of its body. -/
theorem command_runs {i : Instr} (hc : i.isCommand = true) (hw : i.wellFormed = true)
    {body : State → Result} {s t : State} (hword : s.host.cmdWord = wordOf i)
    (h : runCommand (wordOf i) body s = .next t)
    (hbody : ∀ n, body (beginCommand (wordOf i) n s) = .next t →
      Runs (bodyEntry i (beginCommand (wordOf i) n (s.setPhase 0x01#8))) t) :
    ∃ n, reaches (n + 1) (s.setPhase 0x01#8) t := by
  have hcheck : checkCommand (s.setPhase 0x01#8).host.cmdWord (s.setPhase 0x01#8) =
      checkCommand (wordOf i) s := by rw [State.setPhase_host, hword]; rfl
  have hphase : (s.setPhase 0x01#8).seq.phase = 0x01#8 := rfl
  have hstep := step_phase (s := s.setPhase 0x01#8) (i := .cmdCheck) (by rw [hphase]; decide) rfl
  obtain ⟨err, hfail, hr⟩ | ⟨j, n, hok, hr⟩ := runCommand_cases (wordOf i) body s
  · rw [exec_cmdCheck_error (hcheck.trans hfail), thenDo_next] at hstep
    rw [hr] at h
    cases h
    exact ⟨0, _, hstep, rfl⟩
  · rw [exec_cmdCheck_ok (hcheck.trans hok), thenDo_next, State.setPhase_host, hword] at hstep
    have hentry : enterBody (beginCommand (wordOf i) n (s.setPhase 0x01#8)) = _ :=
      enterBody_of_decode (by rw [beginCommand_seq, hphase]; decide) (decodeCommand_wordOf hc hw)
    obtain ⟨k, hrun⟩ := hbody n (hr ▸ h)
    rw [← hentry] at hrun
    exact ⟨k, _, hstep, hrun⟩

/-- The commands of a context are done with the step of `CMD_CHECK`. -/
theorem contextCommand_runs {i : Instr} (hc : i.isCommand = true) (hw : i.wellFormed = true)
    {f : State → State} {s t : State} (hword : s.host.cmdWord = wordOf i)
    (h : runCommand (wordOf i) (fun u => .next (f u)) s = .next t)
    (hentry : ∀ n, bodyEntry i (beginCommand (wordOf i) n (s.setPhase 0x01#8)) =
      f (beginCommand (wordOf i) n s)) : ∃ n, reaches (n + 1) (s.setPhase 0x01#8) t := by
  refine command_runs hc hw hword h fun n hb => ?_
  cases hb
  rw [hentry]
  exact .refl _

theorem enterEncodeFrame_setPhase (f : Nat) (s : State) (c : Byte) :
    enterEncodeFrame f (s.setPhase c) = enterEncodeFrame f s :=
  if_congr Iff.rfl rfl rfl

theorem enterDecodeFrame_setPhase (f : Nat) (s : State) (c : Byte) :
    enterDecodeFrame f (s.setPhase c) = enterDecodeFrame f s :=
  if_congr Iff.rfl rfl rfl

theorem enterFillFrame_setPhase (f : Nat) (s : State) (c : Byte) :
    enterFillFrame f (s.setPhase c) = enterFillFrame f s :=
  if_congr Iff.rfl rfl rfl

/-- A command that answers as one step reaches the same state one micro-operation at a time. -/
theorem command_steps {i : Instr} (hc : i.isCommand = true) (hw : i.wellFormed = true) {s t : State}
    (hword : s.host.cmdWord = wordOf i) (h : exec i s = .next t) :
    ∃ n, reaches (n + 1) (s.setPhase 0x01#8) t := by
  cases i with
  | init side =>
    exact contextCommand_runs hc hw (f := initBody side) hword h fun n => by cases side <;> rfl
  | setRate side =>
    exact contextCommand_runs hc hw (f := setRateBody side) hword h fun n => by cases side <;> rfl
  | release side =>
    exact contextCommand_runs hc hw (f := releaseBody side) hword h fun n => by cases side <;> rfl
  | encode side =>
    obtain rfl : side = .enc := by simpa [Instr.wellFormed] using hw
    refine command_runs hc hw hword h fun n hb => ?_
    have hrun : Runs (enterEncodeFrame 0 (beginCommand (wordOf (.encode .enc)) n s)) t :=
      (encodeFrames_walk (m := s.d.mode)).finish ⟨rfl, rfl, rfl⟩ hb
    rwa [← enterEncodeFrame_setPhase 0 _ 0x01#8] at hrun
  | decode side =>
    obtain rfl : side = .dec := by simpa [Instr.wellFormed] using hw
    refine command_runs hc hw hword h fun n hb => ?_
    have hrun : Runs (enterDecodeFrame 0 (clearRecord (beginCommand (wordOf (.decode .dec)) n s))) t :=
      (decodeFrames_walk (m := s.d.mode)).finish ⟨rfl, rfl, rfl⟩ hb
    rwa [← enterDecodeFrame_setPhase 0 _ 0x01#8] at hrun
  | fillIn side =>
    obtain rfl : side = .dec := by simpa [Instr.wellFormed] using hw
    refine command_runs hc hw hword h fun n hb => ?_
    have hrun : Runs (enterFillFrame 0 (clearRecord (beginCommand (wordOf (.fillIn .dec)) n s))) t :=
      (fillFrames_walk (m := s.d.mode)).finish ⟨rfl, rfl, rfl⟩ hb
    rwa [← enterFillFrame_setPhase 0 _ 0x01#8] at hrun
  | _ => cases hc

end Sys2Proof.Machine
end

section
/-! PROOF. A frame command is its frames of micro-operations in the order of the rules (47_frame_commands.md
R371, R376, R383): the model's sequences, rewritten part by part as the lists of Safety.lean. -/

namespace Sys2Proof.Machine

/-! ## Sequences part by part -/

theorem thenDo_congr {o : Result} {f g : State → Result} (h : ∀ t, o = .next t → f t = g t) :
    thenDo o f = thenDo o g := by
  cases o with
  | next t => exact h t rfl
  | fault r => rfl
  | refused r => rfl

theorem thenDo_runAll_nil (o : Result) : thenDo o (runAll []) = o := by cases o <;> rfl

/-- Two sequences whose first parts agree where `P` holds, and that keep `P`, agree. -/
theorem runAll_cons_congr {P : State → Prop} {m k : State → Result} {ms ks : List (State → Result)}
    (hmk : ∀ s, P s → m s = k s) (hkeep : Keeps P m) (h : ∀ s, P s → runAll ms s = runAll ks s)
    (s : State) (hs : P s) : runAll (m :: ms) s = runAll (k :: ks) s := by
  rw [runAll_cons, runAll_cons, ← hmk s hs]
  exact thenDo_congr fun t ht => h t (hkeep s t hs ht)

/-- The frame loop as the frames' lists one after another, where each frame is its list. -/
theorem frameLoop_eq_runAll {P : State → Prop} {frame : State → Result}
    {order : Nat → List (State → Result)}
    (hset : ∀ s f, P s → P (s.setFrame f)) (hkeep : Keeps P frame)
    (horder : ∀ f s, P s → frame (s.setFrame f) = runAll (order f) s) (k f : Nat) {s : State} (hs : P s) :
    frameLoop frame k f s = runAll ((List.range' f k).flatMap order) s := by
  induction k generalizing f s with
  | zero => rfl
  | succ k ih =>
    rw [List.range'_succ, List.flatMap_cons, runAll_append, ← horder f s hs]
    exact thenDo_congr fun t ht => ih (f + 1) (hkeep _ t (hset s f hs) ht)

theorem frames_eq {P : State → Prop} {frame : State → Result} {order : Nat → List (State → Result)}
    (hset : ∀ s f, P s → P (s.setFrame f)) (hkeep : Keeps P frame)
    (horder : ∀ f s, P s → frame (s.setFrame f) = runAll (order f) s) (n : Nat) {s : State} (hs : P s) :
    frameLoop frame n 0 s = frames n order s := by
  rw [frameLoop_eq_runAll hset hkeep horder n 0 hs, frames, List.range_eq_range']

/-! ## Frames in the order of the rules -/

theorem encodeFrame_eq_order (f : Nat) (s : State) :
    encodeFrame (s.setFrame f) = runAll (encodeFrameOrder f) s := by
  have hturns : encodeFrame = runAll (encodeFrameOrder f).tail := rfl
  rw [hturns, encodeFrameOrder, runAll_cons, between, thenDo_next, List.tail_cons]

theorem frameEnd_eq (s : State) : frameEnd s = s.setSeq { s.seq with
    last := s.w.ferr, orf := s.seq.orf ||| s.w.ferr
    nconc := if s.w.ferr = 0#4 then s.seq.nconc
      else BitVec.ofNat 16 (min 65535 (s.seq.nconc.toNat + 1)) } := by
  rw [frameEnd, recordFrame, ite_not]

theorem concealTail_eq_order : concealTail = runAll decoderFrameEnd := by
  have hend : act frameEnd = between fun s => s.setSeq { s.seq with
      last := s.w.ferr, orf := s.seq.orf ||| s.w.ferr
      nconc := if s.w.ferr = 0#4 then s.seq.nconc
        else BitVec.ofNat 16 (min 65535 (s.seq.nconc.toNat + 1)) } := by
    funext s
    rw [act, frameEnd_eq, between]
  rw [concealTail, decoderFrameEnd, ← hend]
  rfl

theorem decodeFrameStart_eq (f : Nat) (s : State) :
    decodeFrameStart (s.setFrame f) = decoderFrameStart f 0#4 (fun s => s.w.magsh) s := by
  cases hb : s.build.backend <;>
    simp [decodeFrameStart, decoderFrameStart, zeroCoef, hb, SigReg.put, State.setFrame]

theorem fillFrameStart_eq (f : Nat) (s : State) :
    fillFrameStart (s.setFrame f) = decoderFrameStart f 8#4 (fun _ => 0#16) s := by
  cases hb : s.build.backend <;>
    simp [fillFrameStart, decoderFrameStart, zeroCoef, hb, SigReg.put, State.setFrame, ferrErased]

theorem fillFrame_eq_order (f : Nat) (s : State) :
    fillFrame (s.setFrame f) = runAll (fillFrameOrder f) s := by
  rw [fillFrame, fillFrameOrder, runAll_cons, runAll_cons, act, between, fillFrameStart_eq, thenDo_next,
    thenDo_next, concealTail_eq_order]
  exact thenDo_runAll_nil _

theorem headerFailed_eq (s : State) : headerFailed s = s.w.ferr.getLsbD 1 := by
  have hbit : ∀ b : BitVec 4, decide (b &&& 2#4 ≠ 0#4) = b.getLsbD 1 := by decide
  exact hbit s.w.ferr

theorem decodeRegions_eq (k r : Nat) (s : State) : decodeRegions k r s =
    runAll ((List.range' r k).flatMap fun r =>
      [between fun s => s.setRegion r, turn .vqDec, turn .noiseFill]) s := by
  induction k generalizing r s with
  | zero => rfl
  | succ k ih =>
    rw [List.range'_succ, List.flatMap_cons, decodeRegions, List.cons_append, runAll_cons, between, thenDo_next]
    exact thenDo_congr fun u _ => thenDo_congr fun v _ => ih (r + 1) v

/-- Side `D` has mode `m`. -/
def DecMode (m : Mode) (s : State) : Prop := s.d.mode = m

theorem decMode_keeps {m : Mode} {i : Instr} (hi : i ∈ decoderUops) : Keeps (DecMode m) (exec i) := by
  intro s t hs h
  obtain ⟨_, _, _, _, _, _, _, _, rfl⟩ := decoderUop_writes hi h
  exact hs

theorem decodeFrame_keeps_mode (m : Mode) : Keeps (DecMode m) decodeFrame :=
  decodeFrame_keeps (fun _ _ hs => hs) (fun _ hs => hs) (fun _ hs => hs) fun _ hi => decMode_keeps hi

theorem fillFrame_keeps_mode (m : Mode) : Keeps (DecMode m) fillFrame :=
  fillFrame_keeps (fun _ _ hs => hs) (fun _ hs => hs) fun _ hi => decMode_keeps (List.mem_append_right _ hi)

/-- Steps 3 to 8 of R376: the region loop counts the regions of the mode it meets. -/
theorem decodeBody_eq_middle {m : Mode} (s : State) (hs : DecMode m s) :
    decodeBody s = runAll (decodeFrameMiddle m) s := by
  have hturn (i : Instr) (hi : i ∈ decoderUops) : Keeps (DecMode m) (turn i) :=
    .turn (fun _ _ hs => hs) (decMode_keeps hi)
  have hregions (t : State) (ht : DecMode m t) : decodeRegions t.d.mode.nreg 0 t =
      runAll ((List.range m.nreg).flatMap fun r =>
        [between fun s => s.setRegion r, turn .vqDec, turn .noiseFill]) t := by
    rw [ht, decodeRegions_eq, List.range_eq_range']
  have hlast (t : State) (ht : DecMode m t) :
      runAll [fun t => decodeRegions t.d.mode.nreg 0 t, uop .frameCheck execFrameCheck] t =
        runAll (((List.range m.nreg).flatMap fun r =>
          [between fun s => s.setRegion r, turn .vqDec, turn .noiseFill]) ++ [turn .frameCheck]) t := by
    rw [runAll_append, runAll_cons, hregions t ht]
    rfl
  rw [decodeFrameMiddle, List.append_assoc]
  exact runAll_cons_congr (fun _ _ => rfl) (hturn .sdShift (by simp [decoderUops]))
    (runAll_cons_congr (fun _ _ => rfl) (Keeps.act (f := decAvail) fun _ hs => hs)
      (runAll_cons_congr (fun _ _ => rfl) (hturn .categorize (by simp [decoderUops]))
        (runAll_cons_congr (fun _ _ => rfl) (hturn .catReplay (by simp [decoderUops])) hlast))) s hs

theorem decodeFrame_eq_order {m : Mode} (f : Nat) (s : State) (hs : DecMode m s) :
    decodeFrame (s.setFrame f) = runAll (decodeFrameOrder m f) s := by
  have hturn (i : Instr) (hi : i ∈ decoderUops) : Keeps (DecMode m) (turn i) :=
    .turn (fun _ _ hs => hs) (decMode_keeps hi)
  have hskip (t : State) (ht : DecMode m t) :
      runAll [fun s => if headerFailed s then .next s else decodeBody s, concealTail] t =
        runAll ((fun s => if s.w.ferr.getLsbD 1 then .next s else runAll (decodeFrameMiddle m) s) ::
          decoderFrameEnd) t := by
    rw [runAll_cons, runAll_cons, concealTail_eq_order, headerFailed_eq, decodeBody_eq_middle t ht]
    exact thenDo_congr fun u _ => thenDo_runAll_nil _
  rw [decodeFrameOrder, List.cons_append, runAll_cons, between, thenDo_next, ← decodeFrameStart_eq]
  exact runAll_cons_congr (fun _ _ => rfl) (hturn .bsRinit (by simp [decoderUops]))
    (runAll_cons_congr (fun _ _ => rfl) (hturn .pwrDec (by simp [decoderUops])) hskip) _ hs

/-! ## The commands -/

/-- R411: the fields of `ERRINFO` do not overlap, so that or-ing them in place is setting them side by side. -/
theorem errInfoWord_eq (q : SeqRegs) : errInfoWord q =
    q.last.setWidth 32 ||| (q.orf.setWidth 32 <<< 4) ||| (q.nconc.setWidth 32 <<< 16) := by
  apply BitVec.eq_of_getLsbD_eq
  intro i hi
  simp only [errInfoWord, BitVec.getLsbD_append, BitVec.getLsbD_or, BitVec.getLsbD_shiftLeft,
    BitVec.getLsbD_setWidth, BitVec.getLsbD_zero]
  grind

theorem ferrAnyOf_eq (q : SeqRegs) : ferrAnyOf q = decide (0 < q.nconc.toNat) := by
  rw [ferrAnyOf, decide_eq_decide]
  bv_omega

/-- The end of `ENCODE` counts the frames and the rate that its frames leave alone. -/
theorem finishEncode_eq {n : Nat} {s u : State} (hn : u.seq.nframes = n) (hrate : u.e.rate = s.e.rate) :
    finishEncode u = frameCommandEnd (n * (s.e.rate.toNat / 50 / 8)) u := by
  rw [finishEncode, hn, encBypf, hrate]
  rfl

theorem finishDecode_eq {c : Instr} {n : Nat} {m : Mode} {u : State} (hu : InCommand c n m u) :
    finishDecode u = decoderCommandEnd (n * m.blk) u := by
  rw [finishDecode, hu.nframes, hu.mode, errInfoWord_eq, ferrAnyOf_eq]
  rfl

/-- A command whose frames are the rules' lists and whose end is the rules' end is the rules' whole list. -/
theorem command_eq_order {frame : State → Result} {order : Nat → List (State → Result)} {n : Nat}
    {start finish fin : State → State} {s : State}
    (hframes : frameLoop frame n 0 (start s) = frames n order (start s))
    (hfin : ∀ u, frameLoop frame n 0 (start s) = .next u → finish u = fin u) :
    thenDo (frameLoop frame n 0 (start s)) (act finish) =
      runAll [between start, frames n order, between fin] s := by
  simp only [runAll_cons, between, thenDo_next, ← hframes]
  exact thenDo_congr fun u hu => congrArg Host.Outcome.next (hfin u hu)

theorem exec_encode_eq_order (s : State) (hv : s.e.valid = true)
    (hn : s.arg0.toNat / s.e.mode.blk ≤ s.build.maxFrames) :
    exec (.encode .enc) s =
      runAll [between (frameCommandStart 0x03000000#32 (s.arg0.toNat / s.e.mode.blk) false),
        frames (s.arg0.toNat / s.e.mode.blk) encodeFrameOrder,
        between (frameCommandEnd (s.arg0.toNat / s.e.mode.blk * (s.e.rate.toNat / 50 / 8)))] s := by
  have hpass : exec (.encode .enc) s = _ := runCommand_pass (i := .encode .enc) rfl rfl
    (fun side hside => by cases hside; exact hv) rfl hn encodeBody
  rw [hpass]
  refine command_eq_order (frames_eq (P := fun _ => True) (fun _ _ h => h) (fun _ _ _ _ => trivial)
    (fun f t _ => encodeFrame_eq_order f t) _ trivial) fun u hu => ?_
  have hin : InCommand (.encode .enc) (s.arg0.toNat / s.e.mode.blk) s.d.mode u :=
    encodeFrames_walk.keeps hu ⟨rfl, rfl, rfl⟩
  obtain ⟨_, _, _, _, _, rfl⟩ := encodeFrames_run hu
  exact finishEncode_eq (s := s) hin.nframes rfl

theorem exec_decode_eq_order (s : State) (hv : s.d.valid = true)
    (hn : s.arg0.toNat / (s.d.rate.toNat / 50 / 8) ≤ s.build.maxFrames) :
    exec (.decode .dec) s =
      runAll [between (frameCommandStart 0x04800000#32 (s.arg0.toNat / (s.d.rate.toNat / 50 / 8)) true),
        frames (s.arg0.toNat / (s.d.rate.toNat / 50 / 8)) (decodeFrameOrder s.d.mode),
        between (decoderCommandEnd (s.arg0.toNat / (s.d.rate.toNat / 50 / 8) * s.d.mode.blk))] s := by
  have hpass : exec (.decode .dec) s = _ := runCommand_pass (i := .decode .dec) rfl rfl
    (fun side hside => by cases hside; exact hv) rfl hn decodeCommandBody
  rw [hpass]
  refine command_eq_order (frames_eq (P := DecMode s.d.mode) (fun _ _ h => h) (decodeFrame_keeps_mode _)
    decodeFrame_eq_order _ rfl) fun u hu => ?_
  have hin : InCommand (.decode .dec) (s.arg0.toNat / (s.d.rate.toNat / 50 / 8)) s.d.mode u :=
    decodeFrames_walk.keeps hu ⟨rfl, rfl, rfl⟩
  exact finishDecode_eq hin

theorem exec_fillIn_eq_order (s : State) (hv : s.d.valid = true)
    (hn : s.arg0.toNat / (s.d.rate.toNat / 50 / 8) ≤ s.build.maxFrames) :
    exec (.fillIn .dec) s =
      runAll [between (frameCommandStart 0x05800000#32 (s.arg0.toNat / (s.d.rate.toNat / 50 / 8)) true),
        frames (s.arg0.toNat / (s.d.rate.toNat / 50 / 8)) fillFrameOrder,
        between (decoderCommandEnd (s.arg0.toNat / (s.d.rate.toNat / 50 / 8) * s.d.mode.blk))] s := by
  have hpass : exec (.fillIn .dec) s = _ := runCommand_pass (i := .fillIn .dec) rfl rfl
    (fun side hside => by cases hside; exact hv) rfl hn fillInBody
  rw [hpass]
  refine command_eq_order (frames_eq (P := DecMode s.d.mode) (fun _ _ h => h) (fillFrame_keeps_mode _)
    (fun f t _ => fillFrame_eq_order f t) _ rfl) fun u hu => ?_
  have hin : InCommand (.fillIn .dec) (s.arg0.toNat / (s.d.rate.toNat / 50 / 8)) s.d.mode u :=
    fillFrames_walk.keeps hu ⟨rfl, rfl, rfl⟩
  exact finishDecode_eq hin

/-- Settles O4: the walks of the micro-operations, and the frame commands' lists. -/
theorem microStepsReachTheCommandsState : Obligations.MicroStepsReachTheCommandsState :=
  ⟨fun _ _ _ hc hw hword _ h => command_steps hc hw hword h, exec_encode_eq_order,
    fun s hv hn => ⟨exec_decode_eq_order s hv hn, exec_fillIn_eq_order s hv hn⟩⟩

end Sys2Proof.Machine
end

section
/-! PROOF. The budget and the offset search of `CATEGORIZE` (45_categorization.md R302 to R304). -/

namespace Sys2Proof.Machine

/-! ## Budget (R302) -/

section
variable {m : Mode} {a : Int}

theorem budgetOf_of_le (h : a ≤ m.blk) : budgetOf m a = a := if_neg (not_lt.mpr h)

theorem budgetOf_of_gt (h : (m.blk : Int) < a) : budgetOf m a = (a - m.blk) * 5 / 8 + m.blk := if_pos h

end

/-! ## Expected bits (R303) -/

theorem rawCat_mono (abs : Nat → Int) (r : Nat) : Monotone fun t => rawCat abs t r := by
  intro t u htu
  simp only [rawCat, clampInt]
  omega

theorem rawCat_le (abs : Nat → Int) (t : Int) (r : Nat) : rawCat abs t r ≤ 7 := by
  rw [rawCat, clampInt]
  omega

theorem expbitsWf.antitone {rom : Rom} (h : expbitsWf rom) {c d : Nat} (hcd : c ≤ d) (hd : d ≤ 7) :
    vget rom.expbits d ≤ vget rom.expbits c := by
  induction d, hcd using Nat.le_induction with
  | base => exact le_rfl
  | succ d _ ih => exact (h.1 d (by omega)).trans (ih (by omega))

theorem expectedBits_antitone {rom : Rom} (h : expbitsWf rom) (abs : Nat → Int) (n : Nat) :
    Antitone (expectedBits (vget rom.expbits) abs n) := fun _ _ htu =>
  Int.ofNat_le.mpr <| List.sum_le_sum fun r _ => h.antitone (rawCat_mono abs r htu) (rawCat_le abs _ r)

/-! ## Offset search (R304) -/

/-- One step of the search. -/
def searchStep (e : Int → Int) (b ans delta : Int) : Int :=
  if e (ans + delta) ≥ b - 32 then ans + delta else ans

/-- The steps `2^(k-1), …, 2, 1`. -/
def halvings : Nat → List Int
  | 0 => []
  | k + 1 => 2 ^ k :: halvings k

theorem offsetSearch_eq_foldl (e : Int → Int) (b : Int) :
    offsetSearch e b = (halvings 6).foldl (searchStep e b) (-32) := rfl

/-- The steps from `2^(k-1)` down reach the next `2^k` offsets and no other. -/
theorem search_range (e : Int → Int) (b : Int) (k : Nat) (ans : Int) :
    ans ≤ (halvings k).foldl (searchStep e b) ans ∧
      (halvings k).foldl (searchStep e b) ans < ans + 2 ^ k := by
  induction k generalizing ans with
  | zero => simp [halvings]
  | succ k ih =>
    have hpos : (0 : Int) < 2 ^ k := by positivity
    obtain ⟨hle, hlt⟩ := ih (searchStep e b ans (2 ^ k))
    rw [halvings, List.foldl_cons, pow_succ]
    have hstep : searchStep e b ans (2 ^ k) = ans + 2 ^ k ∨ searchStep e b ans (2 ^ k) = ans :=
      ite_eq_or_eq _ _ _
    omega

/-- With expected bits that do not increase: where no offset from `ans + 2^k` up reaches the budget, the search from
`ans` ends at the last one that does, or at `ans`. -/
theorem search_largest {e : Int → Int} (he : Antitone e) (b top : Int) (k : Nat) (ans : Int)
    (habove : ∀ u, ans + 2 ^ k ≤ u → u ≤ top → e u < b - 32) :
    (ans < (halvings k).foldl (searchStep e b) ans →
      e ((halvings k).foldl (searchStep e b) ans) ≥ b - 32) ∧
    ∀ u, (halvings k).foldl (searchStep e b) ans < u → u ≤ top → e u < b - 32 := by
  induction k generalizing ans with
  | zero =>
    refine ⟨fun h => absurd h (lt_irrefl _), fun u hu htop => habove u ?_ htop⟩
    simp only [halvings, List.foldl_nil] at hu
    omega
  | succ k ih =>
    rw [halvings, List.foldl_cons, searchStep]
    split
    next hgo =>
      obtain ⟨hends, hrest⟩ := ih (ans + 2 ^ k) fun u hu htop => habove u (by rw [pow_succ]; omega) htop
      refine ⟨fun _ => ?_, hrest⟩
      rcases (search_range e b k (ans + 2 ^ k)).1.eq_or_lt with heq | hlt
      · rwa [← heq]
      · exact hends hlt
    next hstay => exact ih ans fun u hu _ => (he hu).trans_lt (not_le.mp hstay)

theorem offsetSearch_range (e : Int → Int) (b : Int) :
    -32 ≤ offsetSearch e b ∧ offsetSearch e b ≤ 31 := by
  obtain ⟨hle, hlt⟩ := search_range e b 6 (-32)
  rw [offsetSearch_eq_foldl]
  exact ⟨hle, by omega⟩

/-- Settles O45: the budget by the side of the threshold, and the search with the expected bits of a conforming
ROM. -/
theorem budgetAndOffsetSearchFollowTheirRules : Obligations.BudgetAndOffsetSearchFollowTheirRules := by
  refine ⟨fun m a h => budgetOf_of_le h, fun m a h => ?_, by decide, fun rom abs n b hrom => ?_⟩
  · rw [budgetOf_of_gt h]
    omega
  · obtain ⟨hge, hle⟩ := offsetSearch_range (expectedBits (vget rom.expbits) abs n) b
    obtain ⟨hends, habove⟩ := search_largest (expectedBits_antitone hrom abs n) b 31 6 (-32) (by omega)
    exact ⟨hle, hge, hends, habove⟩

end Sys2Proof.Machine
end

section
/-! PROOF. `CATEGORIZE` (45_categorization.md R301, R305 to R309): what the two scans choose, what a step of the
rebalance does to the two assignments, their totals and the balance entries, and the outputs. -/

namespace Sys2Proof.Machine

/-! ## The scans of R307 and R308 -/

/-- A scan from the back of a list to its front for the smallest key below `start`; a key replaces the candidate
only where it is strictly smaller. -/
def scan {K : Type} [LinearOrder K] (ok : Nat → Prop) [DecidablePred ok] (key : Nat → K) (start : K)
    (l : List Nat) : K × Nat :=
  l.foldr (fun r p => if ok r then (if key r < p.1 then (key r, r) else p) else p) (start, 0)

/-- `w` has the smallest key; among equals it comes last in the order `before`. -/
structure Cheapest {K : Type} [LinearOrder K] (ok : Nat → Prop) (key : Nat → K) (before : Nat → Nat → Prop)
    (l : List Nat) (w : Nat) : Prop where
  mem : w ∈ l
  eligible : ok w
  le : ∀ r ∈ l, ok r → key w ≤ key r
  lt : ∀ r ∈ l, ok r → before w r → key w < key r

section
variable {K : Type} [LinearOrder K] {ok : Nat → Prop} [DecidablePred ok] {key : Nat → K} {start : K}
  {before : Nat → Nat → Prop} {l : List Nat}

/-- Either no key is below `start`, or the scan ends at the smallest. -/
theorem scan_cases (hasymm : ∀ a b, before a b → ¬ before b a) (hl : l.Pairwise before) :
    (scan ok key start l = (start, 0) ∧ ∀ r ∈ l, ok r → start ≤ key r) ∨
      ((scan ok key start l).1 = key (scan ok key start l).2 ∧ (scan ok key start l).1 < start ∧
        Cheapest ok key before l (scan ok key start l).2) := by
  induction l with
  | nil => exact .inl ⟨rfl, by simp⟩
  | cons x l ih =>
    obtain ⟨hx, hl⟩ := List.pairwise_cons.mp hl
    have hcons : scan ok key start (x :: l) = if ok x then
        (if key x < (scan ok key start l).1 then (key x, x) else scan ok key start l)
        else scan ok key start l := rfl
    by_cases hnew : ok x ∧ key x < (scan ok key start l).1
    · rw [hcons, if_pos hnew.1, if_pos hnew.2]
      have hsmall : key x < start ∧ ∀ r ∈ l, ok r → key x < key r := by
        rcases ih hl with ⟨heq, hnone⟩ | ⟨heq, hlt, hw⟩
        · rw [heq] at hnew
          exact ⟨hnew.2, fun r hr hok => hnew.2.trans_le (hnone r hr hok)⟩
        · exact ⟨hnew.2.trans hlt, fun r hr hok => hnew.2.trans_le (heq ▸ hw.le r hr hok)⟩
      refine .inr ⟨rfl, hsmall.1, List.mem_cons_self, hnew.1, ?_, ?_⟩
      · exact List.forall_mem_cons.mpr ⟨fun _ => le_rfl, fun r hr hok => (hsmall.2 r hr hok).le⟩
      · exact List.forall_mem_cons.mpr ⟨fun _ h => absurd h (hasymm _ _ h),
          fun r hr hok _ => hsmall.2 r hr hok⟩
    · have hkeep : scan ok key start (x :: l) = scan ok key start l := by
        rw [hcons]
        split
        next hok => exact if_neg fun h => hnew ⟨hok, h⟩
        next => rfl
      have hold : ok x → (scan ok key start l).1 ≤ key x := fun hok => not_lt.mp fun h => hnew ⟨hok, h⟩
      rw [hkeep]
      rcases ih hl with ⟨heq, hnone⟩ | ⟨heq, hlt, hw⟩
      · refine .inl ⟨heq, List.forall_mem_cons.mpr ⟨fun hok => ?_, hnone⟩⟩
        rw [heq] at hold
        exact hold hok
      · rw [heq] at hold
        exact .inr ⟨heq, hlt, List.mem_cons_of_mem _ hw.mem, hw.eligible,
          List.forall_mem_cons.mpr ⟨hold, hw.le⟩,
          List.forall_mem_cons.mpr ⟨fun _ h => absurd h (hasymm _ _ (hx _ hw.mem)), hw.lt⟩⟩

theorem scan_cheapest (hasymm : ∀ a b, before a b → ¬ before b a) (hl : l.Pairwise before)
    (hsome : ∃ r ∈ l, ok r ∧ key r < start) : Cheapest ok key before l (scan ok key start l).2 := by
  rcases scan_cases (ok := ok) (key := key) (start := start) hasymm hl with ⟨-, hnone⟩ | ⟨-, -, hw⟩
  · obtain ⟨r, hr, hok, hlt⟩ := hsome
    exact absurd (hnone r hr hok) (not_le.mpr hlt)
  · exact hw

theorem scan_eq_zero (hasymm : ∀ a b, before a b → ¬ before b a) (hl : l.Pairwise before)
    (hnone : ∀ r ∈ l, ok r → start ≤ key r) : (scan ok key start l).2 = 0 := by
  rcases scan_cases (ok := ok) (key := key) (start := start) hasymm hl with ⟨heq, -⟩ | ⟨heq, hlt, hw⟩
  · rw [heq]
  · exact absurd (hnone _ hw.mem hw.eligible) (not_le.mpr (heq ▸ hlt))

end

section
variable (offset : Int) (abs : Nat → Int) (n : Nat) (cat : List Nat)

/-- The scan of R307 meets region 0 first. -/
theorem promoteChoice_eq_scan : promoteChoice offset abs n cat =
    (scan (fun r => 0 < lget cat r) (fun r => slack offset abs r (lget cat r)) 99
      (List.range n).reverse).2 := by
  rw [scan, List.foldr_reverse]
  rfl

/-- The scan of R308 meets the last region first and looks for the largest `t(r)`, the smallest in the
dual order. -/
theorem demoteChoice_eq_scan : demoteChoice offset abs n cat =
    (scan (fun r => lget cat r < 7) (fun r => OrderDual.toDual (slack offset abs r (lget cat r)))
      (OrderDual.toDual (-99)) (List.range n)).2 := rfl

end

section
variable {offset : Int} {abs : Nat → Int} {n : Nat} {cat : List Nat}

theorem promoteChoice_cheapest (h : ∃ r < n, 0 < lget cat r ∧ slack offset abs r (lget cat r) < 99) :
    Cheapest (fun r => 0 < lget cat r) (fun r => slack offset abs r (lget cat r)) (· > ·)
      (List.range n).reverse (promoteChoice offset abs n cat) := by
  rw [promoteChoice_eq_scan]
  refine scan_cheapest (fun _ _ => lt_asymm) (List.pairwise_reverse.mpr List.pairwise_lt_range) ?_
  simpa using h

theorem promoteChoice_eq_zero (h : ∀ r < n, 0 < lget cat r → 99 ≤ slack offset abs r (lget cat r)) :
    promoteChoice offset abs n cat = 0 := by
  rw [promoteChoice_eq_scan]
  refine scan_eq_zero (before := (· > ·)) (fun _ _ => lt_asymm)
    (List.pairwise_reverse.mpr List.pairwise_lt_range) ?_
  simpa using h

theorem demoteChoice_cheapest (h : ∃ r < n, lget cat r < 7 ∧ -99 < slack offset abs r (lget cat r)) :
    Cheapest (fun r => lget cat r < 7) (fun r => OrderDual.toDual (slack offset abs r (lget cat r)))
      (· < ·) (List.range n) (demoteChoice offset abs n cat) := by
  rw [demoteChoice_eq_scan]
  refine scan_cheapest (fun _ _ => lt_asymm) List.pairwise_lt_range ?_
  obtain ⟨r, hr, hok, hlt⟩ := h
  exact ⟨r, List.mem_range.mpr hr, hok, OrderDual.toDual_lt_toDual.mpr hlt⟩

theorem demoteChoice_eq_zero (h : ∀ r < n, lget cat r < 7 → slack offset abs r (lget cat r) ≤ -99) :
    demoteChoice offset abs n cat = 0 := by
  rw [demoteChoice_eq_scan]
  refine scan_eq_zero (before := (· < ·)) (fun _ _ => lt_asymm) List.pairwise_lt_range fun r hr hok => ?_
  exact OrderDual.toDual_le_toDual.mpr (h r (List.mem_range.mp hr) hok)

end

/-! ## One step of the rebalance -/

theorem lget_set {α : Type} [Inhabited α] (l : List α) {i : Nat} (hi : i < l.length) (x : α) (r : Nat) :
    lget (l.set i x) r = if r = i then x else lget l r := by
  by_cases h : r = i
  · subst h
    simp [lget, hi]
  · simp [lget, h, Ne.symm h]

/-- The sum over `0 .. n-1` of two functions that differ at one place. -/
theorem sum_range_of_differ {f g : Nat → Int} {i n : Nat} (hi : i < n)
    (h : ∀ r < n, r ≠ i → g r = f r) :
    ((List.range n).map g).sum = ((List.range n).map f).sum - f i + g i := by
  induction n with
  | zero => omega
  | succ n ih =>
    simp only [List.range_succ, List.map_append, List.sum_append, List.map_singleton, List.sum_singleton]
    rcases Nat.lt_succ_iff_lt_or_eq.mp hi with hlt | rfl
    · rw [ih hlt fun r hr => h r (by omega), h n (by omega) (by omega)]
      ring
    · rw [List.map_congr_left fun r hr => h r (by have := List.mem_range.mp hr; omega)
        (List.mem_range.mp hr).ne]
      ring

/-- The expected bits of the categories `cat`. -/
def expectedTotal (expbits : Nat → Nat) (n : Nat) (cat : Nat → Nat) : Int :=
  ((List.range n).map fun r => (expbits (cat r) : Int)).sum

/-- The two assignments have a category for each region, and the running totals are theirs. -/
structure Rebalance.Sound (expbits : Nat → Nat) (n : Nat) (q : Rebalance) : Prop where
  mx_length : q.mx.length = n
  mn_length : q.mn.length = n
  mx_le : ∀ r < n, lget q.mx r ≤ 7
  mn_le : ∀ r < n, lget q.mn r ≤ 7
  emax : q.emax = expectedTotal expbits n (lget q.mx)
  emin : q.emin = expectedTotal expbits n (lget q.mn)

section
variable {expbits : Nat → Nat} {n idx : Nat} {q : Rebalance}

theorem expectedTotal_set {l : List Nat} (hl : l.length = n) (hidx : idx < n) (c : Nat) :
    expectedTotal expbits n (lget (l.set idx c)) =
      expectedTotal expbits n (lget l) - expbits (lget l idx) + expbits c := by
  have hset := lget_set l (hl ▸ hidx) c
  rw [expectedTotal, sum_range_of_differ hidx fun r _ hne => by rw [hset, if_neg hne], hset, if_pos rfl]
  rfl

theorem promote_mn : (promote expbits idx q).mn = q.mn := by
  rw [promote]
  split <;> rfl

theorem promote_bal : (promote expbits idx q).bal = idx :: q.bal := by
  rw [promote]
  split <;> rfl

theorem demote_mx : (demote expbits idx q).mx = q.mx := by
  rw [demote]
  split <;> rfl

theorem demote_bal : (demote expbits idx q).bal = q.bal ++ [idx] := by
  rw [demote]
  split <;> rfl

namespace Rebalance.Sound

theorem lget_promote_mx (h : q.Sound expbits n) (hidx : idx < n) (r : Nat) :
    lget (promote expbits idx q).mx r = if r = idx then lget q.mx r - 1 else lget q.mx r := by
  rw [promote]
  split
  next =>
    rw [lget_set _ (h.mx_length.symm ▸ hidx)]
    split
    next heq => rw [heq]
    next => rfl
  next hzero =>
    split
    next heq =>
      subst heq
      show lget q.mx r = _
      omega
    next => rfl

theorem lget_demote_mn (h : q.Sound expbits n) (hidx : idx < n) (r : Nat) :
    lget (demote expbits idx q).mn r = if r = idx then min 7 (lget q.mn r + 1) else lget q.mn r := by
  have hle := h.mn_le idx hidx
  rw [demote]
  split
  next hlt =>
    rw [lget_set _ (h.mn_length.symm ▸ hidx)]
    split
    next heq => rw [heq]; omega
    next => rfl
  next hfull =>
    split
    next heq =>
      subst heq
      show lget q.mn r = _
      omega
    next => rfl

theorem promote (h : q.Sound expbits n) (hidx : idx < n) : (promote expbits idx q).Sound expbits n where
  mx_length := by
    rw [Machine.promote]
    split <;> simp [h.mx_length]
  mn_length := by rw [promote_mn, h.mn_length]
  mx_le r hr := by
    have hle := h.mx_le r hr
    rw [h.lget_promote_mx hidx]
    split <;> omega
  mn_le := by rw [promote_mn]; exact h.mn_le
  emax := by
    rw [Machine.promote]
    split
    next => rw [expectedTotal_set h.mx_length hidx, ← h.emax]
    next => exact h.emax
  emin := by
    rw [promote_mn, ← h.emin, Machine.promote]
    split <;> rfl

theorem demote (h : q.Sound expbits n) (hidx : idx < n) : (demote expbits idx q).Sound expbits n where
  mx_length := by rw [demote_mx, h.mx_length]
  mn_length := by
    rw [Machine.demote]
    split <;> simp [h.mn_length]
  mx_le := by rw [demote_mx]; exact h.mx_le
  mn_le r hr := by
    have hle := h.mn_le r hr
    rw [h.lget_demote_mn hidx]
    split <;> omega
  emax := by
    rw [demote_mx, ← h.emax, Machine.demote]
    split <;> rfl
  emin := by
    rw [Machine.demote]
    split
    next => rw [expectedTotal_set h.mn_length hidx, ← h.emin]
    next => exact h.emin

end Rebalance.Sound
end

/-! ## The steps one after another -/

section
variable (expbits : Nat → Nat) (offset b : Int) (abs : Nat → Int) (n : Nat)

/-- The registers of the rebalance after `k` steps from the baseline. -/
def rebalanced (k : Nat) : Rebalance :=
  rebalance (rebalanceStep expbits offset b abs n) k (baseline expbits offset abs n)

/-- Does step `k` promote (R306)? -/
def promotesAt (k : Nat) : Bool :=
  decide ((rebalanced expbits offset b abs n k).emax + (rebalanced expbits offset b abs n k).emin ≤ 2 * b)

/-- The region that step `k` promotes or demotes. -/
def entryAt (k : Nat) : Nat :=
  if promotesAt expbits offset b abs n k then
    promoteChoice offset abs n (rebalanced expbits offset b abs n k).mx
  else demoteChoice offset abs n (rebalanced expbits offset b abs n k).mn

end

theorem rebalance_succ (step : Rebalance → Rebalance) (k : Nat) (q : Rebalance) :
    rebalance step (k + 1) q = step (rebalance step k q) := by
  induction k generalizing q with
  | zero => rfl
  | succ k ih => exact ih (step q)

section
variable {expbits : Nat → Nat} {offset b : Int} {abs : Nat → Int} {n k : Nat}

theorem rebalanced_of_promotes (h : promotesAt expbits offset b abs n k = true) :
    rebalanced expbits offset b abs n (k + 1) =
      promote expbits (entryAt expbits offset b abs n k) (rebalanced expbits offset b abs n k) := by
  rw [entryAt, if_pos h, rebalanced, rebalance_succ, rebalanceStep]
  exact if_pos (of_decide_eq_true h)

theorem rebalanced_of_demotes (h : promotesAt expbits offset b abs n k = false) :
    rebalanced expbits offset b abs n (k + 1) =
      demote expbits (entryAt expbits offset b abs n k) (rebalanced expbits offset b abs n k) := by
  rw [entryAt, if_neg (by rw [h]; decide), rebalanced, rebalance_succ, rebalanceStep]
  exact if_neg (of_decide_eq_false h)

theorem entryAt_lt (hn : 0 < n) : entryAt expbits offset b abs n k < n := by
  rw [entryAt]
  split
  · exact promoteChoice_lt offset abs hn _
  · exact demoteChoice_lt offset abs hn _

theorem lget_baseline {r : Nat} (hr : r < n) :
    lget ((List.range n).map (rawCat abs offset)) r = rawCat abs offset r := by
  rw [lget_map_range, if_pos hr]

theorem baseline_sound : (baseline expbits offset abs n).Sound expbits n := by
  have hle : ∀ r < n, lget ((List.range n).map (rawCat abs offset)) r ≤ 7 := fun r hr => by
    rw [lget_baseline hr]
    exact rawCat_le _ _ _
  have htotal : expectedBits expbits abs n offset =
      expectedTotal expbits n (lget ((List.range n).map (rawCat abs offset))) := by
    rw [expectedTotal, expectedBits, Nat.cast_list_sum, List.map_map]
    refine congrArg List.sum (List.map_congr_left fun r hr => ?_)
    rw [lget_baseline (List.mem_range.mp hr)]
    rfl
  exact ⟨by simp [baseline], by simp [baseline], hle, hle, htotal, htotal⟩

theorem rebalanced_sound (hn : 0 < n) (k : Nat) :
    (rebalanced expbits offset b abs n k).Sound expbits n := by
  induction k with
  | zero => exact baseline_sound
  | succ k ih =>
    cases h : promotesAt expbits offset b abs n k with
    | true => exact rebalanced_of_promotes h ▸ ih.promote (entryAt_lt hn)
    | false => exact rebalanced_of_demotes h ▸ ih.demote (entryAt_lt hn)

/-- The first assignment only gets finer (R305). -/
theorem lget_rebalanced_mx_le (hn : 0 < n) (k : Nat) {r : Nat} (hr : r < n) :
    lget (rebalanced expbits offset b abs n k).mx r ≤ rawCat abs offset r := by
  induction k with
  | zero => exact (lget_baseline hr).le
  | succ k ih =>
    cases h : promotesAt expbits offset b abs n k with
    | true =>
      rw [rebalanced_of_promotes h, (rebalanced_sound hn k).lget_promote_mx (entryAt_lt hn)]
      split <;> omega
    | false => rwa [rebalanced_of_demotes h, demote_mx]

/-- The promotions stand in front, last first, then the demotions (R309). -/
theorem rebalanced_bal (k : Nat) : (rebalanced expbits offset b abs n k).bal =
    (((List.range k).filter fun j => promotesAt expbits offset b abs n j).map
        (entryAt expbits offset b abs n)).reverse ++
      ((List.range k).filter fun j => !promotesAt expbits offset b abs n j).map
        (entryAt expbits offset b abs n) := by
  induction k with
  | zero => rfl
  | succ k ih =>
    rw [List.range_succ, List.filter_append, List.filter_append]
    cases h : promotesAt expbits offset b abs n k with
    | true => simp [rebalanced_of_promotes h, promote_bal, ih, h]
    | false => simp [rebalanced_of_demotes h, demote_bal, ih, h]

theorem length_rebalanced_bal (k : Nat) : (rebalanced expbits offset b abs n k).bal.length = k := by
  induction k with
  | zero => rfl
  | succ k ih =>
    cases h : promotesAt expbits offset b abs n k with
    | true => rw [rebalanced_of_promotes h, promote_bal, List.length_cons, ih]
    | false => rw [rebalanced_of_demotes h, demote_bal, List.length_append, ih]; rfl

end

/-! ## `CATEGORIZE` -/

/-- `W.OFFSET` as `CATEGORIZE` writes it (R304). -/
def categorizeOffset (s : State) : Int :=
  offsetSearch (expectedBits (vget s.build.rom.expbits) (fun r => (vget s.w.abs r).toInt) (runMode s).nreg)
    (budgetOf (runMode s) s.w.avail)

/-- The rebalance of `CATEGORIZE` after `k` steps (R306). -/
def categorizeAfter (s : State) (k : Nat) : Rebalance :=
  rebalanced (vget s.build.rom.expbits) (categorizeOffset s) (budgetOf (runMode s) s.w.avail)
    (fun r => (vget s.w.abs r).toInt) (runMode s).nreg k

/-- `W.CAT0` as `CATEGORIZE` writes it (R309). -/
def categorizeCat0 (s : State) : Vector (Fin 8) 28 :=
  vfill s.w.cat0 (runMode s).nreg fun r =>
    Fin.ofNat 8 (lget (categorizeAfter s ((runMode s).nposs - 1)).mx r)

/-- `W.BAL` as `CATEGORIZE` writes it (R309). -/
def categorizeBal (s : State) : Vector (Fin 28) 31 :=
  vfill s.w.bal ((runMode s).nposs - 1) fun i =>
    Fin.ofNat 28 (lget (categorizeAfter s ((runMode s).nposs - 1)).bal i)

theorem exec_categorize (s : State) : exec .categorize s = .next (s.setW { s.w with
    offset := categorizeOffset s, cat0 := categorizeCat0 s, bal := categorizeBal s }) := rfl

theorem vget_categorizeCat0 (s : State) {r : Nat} (hr : r < (runMode s).nreg) :
    (vget (categorizeCat0 s) r).val = lget (categorizeAfter s ((runMode s).nposs - 1)).mx r := by
  have hle : lget (categorizeAfter s ((runMode s).nposs - 1)).mx r ≤ 7 :=
    (rebalanced_sound (nreg_pos _) _).mx_le r hr
  have hn := nreg_le (runMode s)
  rw [categorizeCat0, vget_vfill_lt _ _ hr (by omega), Fin.val_ofNat]
  exact Nat.mod_eq_of_lt (Nat.lt_succ_of_le hle)

theorem vget_categorizeBal (s : State) {i : Nat} (hi : i < (runMode s).nposs - 1) :
    (vget (categorizeBal s) i).val = lget (categorizeAfter s ((runMode s).nposs - 1)).bal i ∧
      (vget (categorizeBal s) i).val < (runMode s).nreg := by
  have hlt : lget (categorizeAfter s ((runMode s).nposs - 1)).bal i < (runMode s).nreg :=
    categorization_bal _ _ _ s.w.avail i
  have hn := nreg_le (runMode s)
  have hposs := nposs_le (runMode s)
  rw [categorizeBal, vget_vfill_lt _ _ hi (by omega), Fin.val_ofNat, Nat.mod_eq_of_lt (by omega)]
  exact ⟨rfl, hlt⟩

theorem map_categorizeBal (s : State) :
    (List.range ((runMode s).nposs - 1)).map (fun i => (vget (categorizeBal s) i).val) =
      (categorizeAfter s ((runMode s).nposs - 1)).bal := by
  have hlength : (categorizeAfter s ((runMode s).nposs - 1)).bal.length = (runMode s).nposs - 1 :=
    length_rebalanced_bal _
  refine List.ext_getElem (by simp [hlength]) fun i hi hi' => ?_
  rw [List.getElem_map, List.getElem_range, (vget_categorizeBal s (hlength ▸ hi')).1, lget_of_lt _ hi']

/-- The outputs depend on the stated inputs only. -/
theorem categorize_congr {s t : State} (hmode : runMode s = runMode t) (havail : s.w.avail = t.w.avail)
    (hexp : s.build.rom.expbits = t.build.rom.expbits)
    (habs : ∀ r < (runMode s).nreg, vget s.w.abs r = vget t.w.abs r) :
    categorizeOffset s = categorizeOffset t ∧
      categorizeAfter s ((runMode s).nposs - 1) = categorizeAfter t ((runMode t).nposs - 1) := by
  have heq : categorization (vget s.build.rom.expbits) (runMode s) (fun r => (vget s.w.abs r).toInt)
      s.w.avail =
      categorization (vget t.build.rom.expbits) (runMode t) (fun r => (vget t.w.abs r).toInt) t.w.avail := by
    rw [← hmode, ← havail, ← hexp]
    exact categorization_congr _ _ (fun r hr => by rw [habs r hr]) _
  exact ⟨congrArg Prod.fst heq, congrArg Prod.snd heq⟩

section
variable {expbits : Nat → Nat} {offset b : Int} {abs : Nat → Int} {n k : Nat}

/-- What step `k` does where it promotes (R307). -/
theorem promotion_step (hn : 0 < n) (hup : promotesAt expbits offset b abs n k = true) :
    let mx := lget (rebalanced expbits offset b abs n k).mx
    let entry := entryAt expbits offset b abs n k
    ((∃ r < n, 0 < mx r ∧ slack offset abs r (mx r) < 99) →
      0 < mx entry ∧ ∀ r < n, 0 < mx r →
        slack offset abs entry (mx entry) ≤ slack offset abs r (mx r) ∧
        (r < entry → slack offset abs entry (mx entry) < slack offset abs r (mx r))) ∧
    ((∀ r < n, 0 < mx r → 99 ≤ slack offset abs r (mx r)) → entry = 0) ∧
    ∀ r < n, lget (rebalanced expbits offset b abs n (k + 1)).mn r =
        lget (rebalanced expbits offset b abs n k).mn r ∧
      lget (rebalanced expbits offset b abs n (k + 1)).mx r = if r = entry then mx r - 1 else mx r := by
  intro mx entry
  have hentry : entry = promoteChoice offset abs n (rebalanced expbits offset b abs n k).mx := if_pos hup
  refine ⟨fun hsome => ?_, fun hnone => hentry.trans (promoteChoice_eq_zero hnone), fun r _ => ?_⟩
  · have hw := promoteChoice_cheapest hsome
    rw [← hentry] at hw
    have hmem : ∀ r < n, r ∈ (List.range n).reverse := fun r hr => by simpa using hr
    exact ⟨hw.eligible, fun r hr hok => ⟨hw.le r (hmem r hr) hok, hw.lt r (hmem r hr) hok⟩⟩
  · rw [rebalanced_of_promotes hup, promote_mn]
    exact ⟨rfl, (rebalanced_sound hn k).lget_promote_mx (entryAt_lt hn) r⟩

/-- What step `k` does where it demotes (R308). -/
theorem demotion_step (hn : 0 < n) (hup : promotesAt expbits offset b abs n k = false) :
    let mn := lget (rebalanced expbits offset b abs n k).mn
    let entry := entryAt expbits offset b abs n k
    ((∃ r < n, mn r < 7 ∧ -99 < slack offset abs r (mn r)) →
      mn entry < 7 ∧ ∀ r < n, mn r < 7 →
        slack offset abs r (mn r) ≤ slack offset abs entry (mn entry) ∧
        (entry < r → slack offset abs r (mn r) < slack offset abs entry (mn entry))) ∧
    ((∀ r < n, mn r < 7 → slack offset abs r (mn r) ≤ -99) → entry = 0) ∧
    ∀ r < n, lget (rebalanced expbits offset b abs n (k + 1)).mx r =
        lget (rebalanced expbits offset b abs n k).mx r ∧
      lget (rebalanced expbits offset b abs n (k + 1)).mn r =
        if r = entry then min 7 (mn r + 1) else mn r := by
  intro mn entry
  have hentry : entry = demoteChoice offset abs n (rebalanced expbits offset b abs n k).mn :=
    if_neg (by rw [hup]; decide)
  refine ⟨fun hsome => ?_, fun hnone => hentry.trans (demoteChoice_eq_zero hnone), fun r _ => ?_⟩
  · have hw := demoteChoice_cheapest hsome
    rw [← hentry] at hw
    have hmem : ∀ r < n, r ∈ List.range n := fun r hr => List.mem_range.mpr hr
    exact ⟨hw.eligible, fun r hr hok => ⟨OrderDual.toDual_le_toDual.mp (hw.le r (hmem r hr) hok),
      fun hlt => OrderDual.toDual_lt_toDual.mp (hw.lt r (hmem r hr) hok hlt)⟩⟩
  · rw [rebalanced_of_demotes hup, demote_mx]
    exact ⟨rfl, (rebalanced_sound hn k).lget_demote_mn (entryAt_lt hn) r⟩

/-- The running totals are those of the two assignments, so that the test of R306 is the rule's. -/
theorem promotesAt_eq (hn : 0 < n) : promotesAt expbits offset b abs n k =
    decide (expectedTotal expbits n (lget (rebalanced expbits offset b abs n k).mx) +
      expectedTotal expbits n (lget (rebalanced expbits offset b abs n k).mn) ≤ 2 * b) := by
  have hsound := rebalanced_sound (expbits := expbits) (offset := offset) (b := b) (abs := abs) hn k
  rw [promotesAt, hsound.emax, hsound.emin]

end

/-- Settles O46: the rebalance gives the outputs, step by step, and two states with the same inputs get the same
ones. -/
theorem categorizeIsAFunctionOfItsInputs : Obligations.CategorizeIsAFunctionOfItsInputs := by
  refine ⟨fun s => ?_, fun s t s' t' hs ht hmode havail hexp habs => ?_⟩
  · have hn := nreg_pos (runMode s)
    obtain ⟨hge, hle⟩ := offsetSearch_range (expectedBits (vget s.build.rom.expbits)
      (fun r => (vget s.w.abs r).toInt) (runMode s).nreg) (budgetOf (runMode s) s.w.avail)
    refine ⟨_, _, _, exec_categorize s, hge, hle, fun r hr => ?_, fun r hr => vget_vfill_ge _ _ hr,
      fun i hi => (vget_categorizeBal s hi).2, fun i hi => vget_vfill_ge _ _ hi,
      fun k => lget (categorizeAfter s k).mx, fun k => lget (categorizeAfter s k).mn,
      entryAt _ _ _ _ _, promotesAt _ _ _ _ _, rfl, fun r hr => ?_,
      fun k _ => ⟨entryAt_lt hn, promotesAt_eq hn, promotion_step hn, demotion_step hn⟩,
      fun r hr => vget_categorizeCat0 s hr, (map_categorizeBal s).trans (rebalanced_bal _)⟩
    · rw [vget_categorizeCat0 s hr]
      exact lget_rebalanced_mx_le hn _ hr
    · exact ⟨lget_baseline hr, rfl⟩
  · obtain ⟨hoffset, hafter⟩ := categorize_congr hmode havail hexp habs
    obtain rfl := Host.Outcome.next.inj ((exec_categorize s).symm.trans hs)
    obtain rfl := Host.Outcome.next.inj ((exec_categorize t).symm.trans ht)
    refine ⟨hoffset, fun r hr => Fin.ext ?_, fun i hi => Fin.ext ?_⟩
    · calc (vget (categorizeCat0 s) r).val = _ := vget_categorizeCat0 s hr
        _ = _ := by rw [hafter]
        _ = (vget (categorizeCat0 t) r).val := (vget_categorizeCat0 t (hmode ▸ hr)).symm
    · calc (vget (categorizeBal s) i).val = _ := (vget_categorizeBal s hi).1
        _ = _ := by rw [hafter]
        _ = (vget (categorizeBal t) i).val := (vget_categorizeBal t (hmode ▸ hi)).1.symm

end Sys2Proof.Machine
end

section
/-! PROOF. `CAT_REPLAY` and `RATE_ADJ` (45_categorization.md R310 to R313): the categories of a control value, and
the two loops of `RATE_ADJ` as walks over the control values. -/

namespace Sys2Proof.Machine

/-! ## The categories of a control value (R310) -/

section
variable (cat0 bal : Nat → Nat) (c r : Nat)

theorem replayCount_succ :
    replayCount bal (c + 1) r = replayCount bal c r + if bal c = r then 1 else 0 := by
  simp [replayCount, List.range_succ, List.countP_append, List.countP_singleton]

/-- The rule's loop and its closed form. -/
theorem catsOf_eq_foldl (h : cat0 r ≤ 7) : catsOf cat0 bal c r =
    (List.range c).foldl (fun x i => if bal i = r then min 7 (x + 1) else x) (cat0 r) := by
  induction c with
  | zero => simpa [catsOf, replayCount] using h
  | succ c ih =>
    rw [List.range_succ, List.foldl_append, ← ih, catsOf, catsOf, replayCount_succ]
    simp only [List.foldl_cons, List.foldl_nil]
    split <;> omega

/-- One control value on, the region of the balance entry between them is the only one that changes. -/
theorem catsOf_succ_of_ne (h : r ≠ bal c) : catsOf cat0 bal (c + 1) r = catsOf cat0 bal c r := by
  rw [catsOf, catsOf, replayCount_succ, if_neg h.symm, Nat.add_zero]

end

theorem vget_catsReg (w : WorkRegs) {n r : Nat} (c : Nat) (hn : n ≤ 28) (hr : r < n) :
    (vget (catsReg w n c) r).val =
      catsOf (fun r => (vget w.cat0 r).val) (fun i => (vget w.bal i).val) c r := by
  rw [catsReg, vget_vfill_lt _ _ hr (by omega), Fin.val_ofNat,
    Nat.mod_eq_of_lt (Nat.lt_succ_of_le (catsOf_le _ _ _ _))]

theorem exec_catReplay (s : State) : exec .catReplay s =
    .next (s.setW { s.w with cat := catsReg s.w s.d.mode.nreg s.w.catctl.val }) := rfl

/-- Settles O47: the closed form that the model computes is the rule's loop. -/
theorem catReplayRunsTheBalanceLoop : Obligations.CatReplayRunsTheBalanceLoop := by
  intro s
  refine ⟨_, exec_catReplay s, fun r hr => ?_, fun r hr => vget_vfill_ge _ _ hr⟩
  rw [vget_catsReg s.w _ (nreg_le _) hr]
  exact catsOf_eq_foldl _ _ _ _ (Nat.le_of_lt_succ (vget s.w.cat0 r).isLt)

/-! ## The loops of `RATE_ADJ` (R312) -/

/-- The length of the coded regions at control value `k`. -/
def codedLength (vq : Nat → Nat → List Bool) (cats : Nat → Nat → Nat) (n k : Nat) : Int :=
  ((List.range n).map fun r => ((vq r (cats k r)).length : Int)).sum

theorem codedLength_of_differ {vq : Nat → Nat → List Bool} {cats : Nat → Nat → Nat} {n k k' r : Nat}
    (hr : r < n) (h : ∀ x < n, x ≠ r → cats k' x = cats k x) : codedLength vq cats n k' =
      codedLength vq cats n k - (vq r (cats k r)).length + (vq r (cats k' r)).length :=
  sum_range_of_differ hr fun x hx hne => by rw [h x hx hne]

theorem sum_length_eq_codedLength {vq : Nat → Nat → List Bool} {cats : Nat → Nat → Nat} {n k : Nat}
    {rbits : Vector (List Bool) 28} (h : ∀ r < n, vget rbits r = vq r (cats k r)) :
    (((List.range n).map fun r => (vget rbits r).length).sum : Nat) = codedLength vq cats n k := by
  rw [codedLength, Nat.cast_list_sum, List.map_map]
  exact congrArg List.sum <| List.map_congr_left fun r hr =>
    congrArg (fun l : List Bool => (l.length : Int)) (h r (List.mem_range.mp hr))

/-- The registers of the rate loops are those of control value `k` (R313). -/
structure RateState.At (vq : Nat → Nat → List Bool) (cats : Nat → Nat → Nat) (n : Nat) (q : RateState)
    (k : Nat) : Prop where
  c : q.c = k
  cat : ∀ r < n, (vget q.cat r).val = cats k r
  rbits : ∀ r < n, vget q.rbits r = vq r (cats k r)
  total : q.total = codedLength vq cats n k

section
variable {vq : Nat → Nat → List Bool} {cats : Nat → Nat → Nat} {bal : Nat → Nat} {n k : Nat}
  {q : RateState}

/-- Coding one region again moves between control values that differ in that region only. -/
theorem RateState.At.recode (h : q.At vq cats n k) {k' r : Nat} (hn : n ≤ 28) (hr : r < n)
    (h7 : cats k' r ≤ 7) (hdiff : ∀ x < n, x ≠ r → cats k' x = cats k x) :
    (recode vq cats k' r q).At vq cats n k' where
  c := rfl
  cat x hx := by
    rw [Machine.recode, vget_vset]
    split
    next heq => rw [heq.1, Fin.val_ofNat, Nat.mod_eq_of_lt (by omega)]
    next hne => rw [h.cat x hx, hdiff x hx fun heq => hne ⟨heq, by omega⟩]
  rbits x hx := by
    rw [Machine.recode, vget_vset]
    split
    next heq => rw [heq.1]
    next hne => rw [h.rbits x hx, hdiff x hx fun heq => hne ⟨heq, by omega⟩]
  total := by
    simp only [Machine.recode, h.total, h.rbits r hr, codedLength_of_differ hr hdiff]

variable {nposs : Nat} (hn : n ≤ 28) (hcats : ∀ k r, cats k r ≤ 7)
  (hbal : ∀ i < nposs - 1, bal i < n ∧ ∀ r, r ≠ bal i → cats (i + 1) r = cats i r)
include hn hcats hbal

/-- The first loop ends at the last control value, from `k` down, that fills the frame, or at 0. -/
theorem finer_at (avail : Int) (fuel : Nat) (h : q.At vq cats n k) (hk : k ≤ fuel) (hlt : k ≤ nposs - 1) :
    ∃ turn ≤ k, (finer vq cats bal avail fuel q).At vq cats n turn ∧
      (∀ j, turn < j → j ≤ k → codedLength vq cats n j < avail) ∧
      (turn = 0 ∨ avail ≤ codedLength vq cats n turn) := by
  induction fuel generalizing q k with
  | zero => exact ⟨k, le_rfl, h, by omega, .inl (by omega)⟩
  | succ fuel ih =>
    rw [finer]
    split
    next hgo =>
      obtain ⟨hroom, hpos⟩ := hgo
      rw [h.total] at hroom
      rw [h.c] at hpos ⊢
      obtain ⟨k, rfl⟩ : ∃ j, k = j + 1 := ⟨k - 1, by omega⟩
      obtain ⟨hreg, hdiff⟩ := hbal k (by omega)
      obtain ⟨turn, hle, hat, hpassed, hend⟩ :=
        ih (h.recode hn hreg (hcats k _) fun x _ hne => (hdiff x hne).symm) (by omega) (by omega)
      refine ⟨turn, by omega, hat, fun j hj hjk => ?_, hend⟩
      rcases hjk.eq_or_lt with rfl | hjlt
      · exact hroom
      · exact hpassed j hj (by omega)
    next hstop =>
      rw [h.total, h.c] at hstop
      exact ⟨k, le_rfl, h, by omega, by omega⟩

/-- The second loop ends at the first control value, from `k` up, that fits the frame, or at the last one. -/
theorem coarser_at (avail : Int) (fuel : Nat) (h : q.At vq cats n k) (hk : nposs - 1 - k ≤ fuel)
    (hlt : k ≤ nposs - 1) :
    ∃ c, k ≤ c ∧ c ≤ nposs - 1 ∧ (coarser vq cats bal avail nposs fuel q).At vq cats n c ∧
      (∀ j, k ≤ j → j < c → avail < codedLength vq cats n j) ∧
      (codedLength vq cats n c ≤ avail ∨ c = nposs - 1) := by
  induction fuel generalizing q k with
  | zero => exact ⟨k, le_rfl, hlt, h, by omega, .inr (by omega)⟩
  | succ fuel ih =>
    rw [coarser]
    split
    next hgo =>
      obtain ⟨hover, hmore⟩ := hgo
      rw [h.total] at hover
      rw [h.c] at hmore ⊢
      obtain ⟨hreg, hdiff⟩ := hbal k hmore
      obtain ⟨c, hle, hlast, hat, hpassed, hend⟩ :=
        ih (h.recode hn hreg (hcats _ _) fun x _ hne => hdiff x hne) (by omega) (by omega)
      refine ⟨c, by omega, hlast, hat, fun j hkj hjc => ?_, hend⟩
      rcases hkj.eq_or_lt with rfl | hjlt
      · exact hover
      · exact hpassed j hjlt hjc
    next hstop =>
      rw [h.total, h.c] at hstop
      exact ⟨k, le_rfl, hlt, h, by omega, by omega⟩

end

/-! ## `RATE_ADJ` -/

/-- The registers before the loops are those of the middle control value. -/
theorem rateStart_at (s : State) :
    (rateStart s).At (rateBits s) (rateCats s) s.e.mode.nreg (s.e.mode.nposs / 2 - 1) := by
  have hn := nreg_le s.e.mode
  have hbits : ∀ r < s.e.mode.nreg, vget (rateStart s).rbits r =
      rateBits s r (rateCats s (s.e.mode.nposs / 2 - 1) r) := fun r hr => by
    rw [rateStart, vget_vfill_lt _ _ hr (by omega)]
  exact ⟨rfl, fun r hr => vget_catsReg s.w _ hn hr, hbits, sum_length_eq_codedLength hbits⟩

/-- Where the two loops of R312 turn and end. -/
theorem rateEnd_at {s : State} (hbal : ∀ i < s.e.mode.nposs - 1, (vget s.w.bal i).val < s.e.mode.nreg) :
    ∃ turn c, turn ≤ s.e.mode.nposs / 2 - 1 ∧ turn ≤ c ∧ c ≤ s.e.mode.nposs - 1 ∧
      (rateEnd s).At (rateBits s) (rateCats s) s.e.mode.nreg c ∧
      (∀ k, turn < k → k ≤ s.e.mode.nposs / 2 - 1 →
        codedLength (rateBits s) (rateCats s) s.e.mode.nreg k < s.w.avail) ∧
      (turn = 0 ∨ s.w.avail ≤ codedLength (rateBits s) (rateCats s) s.e.mode.nreg turn) ∧
      (∀ k, turn ≤ k → k < c → s.w.avail < codedLength (rateBits s) (rateCats s) s.e.mode.nreg k) ∧
      (codedLength (rateBits s) (rateCats s) s.e.mode.nreg c ≤ s.w.avail ∨ c = s.e.mode.nposs - 1) := by
  have hn := nreg_le s.e.mode
  have hcats : ∀ k r, rateCats s k r ≤ 7 := fun _ _ => catsOf_le _ _ _ _
  have hentry : ∀ i < s.e.mode.nposs - 1, (vget s.w.bal i).val < s.e.mode.nreg ∧
      ∀ r, r ≠ (vget s.w.bal i).val → rateCats s (i + 1) r = rateCats s i r :=
    fun i hi => ⟨hbal i hi, fun r hr => catsOf_succ_of_ne _ _ i r hr⟩
  obtain ⟨turn, hturn, hat, hfiner, hfull⟩ := finer_at hn hcats hentry s.w.avail s.e.mode.nposs
    (rateStart_at s) (by omega) (by omega)
  obtain ⟨c, hle, hlast, hend, hcoarser, hfits⟩ := coarser_at hn hcats hentry s.w.avail s.e.mode.nposs
    hat (by omega) (by omega)
  exact ⟨turn, c, hturn, hle, hlast, hend, hfiner, hfull, hcoarser, hfits⟩

theorem vget_rateRows (s : State) {r : Nat} (hr : r < s.e.mode.nreg) : ((vget (rateRows s) r).val : Int) =
    max 0 (min 63 ((vget s.w.abs r).toInt + 24 + 2 * s.w.magsh.toInt)) := by
  have hn := nreg_le s.e.mode
  rw [rateRows, vget_vfill_lt _ _ hr (by omega), Fin.val_ofNat, powerRow, tableRow, clampInt, numNeg]
  omega

theorem exec_rateAdj (s : State) : exec .rateAdj s = .next (s.setW { s.w with
    idxq := rateRows s, catctl := Fin.ofNat 32 (rateEnd s).c, cat := (rateEnd s).cat,
    rbits := (rateEnd s).rbits }) := execRateAdj_eq s

/-- Settles O48: the registers after the loops are those of the control value that the loops end at. -/
theorem rateAdjFitsTheFrameOrUsesTheLastValue : Obligations.RateAdjFitsTheFrameOrUsesTheLastValue := by
  intro s n hbal
  obtain ⟨turn, c, hturn, hle, hlast, ⟨hc, hcat, hrbits, htotal⟩, hfiner, hfull, hcoarser, hfits⟩ :=
    rateEnd_at hbal
  have hposs := nposs_le s.e.mode
  have hpos : 0 < s.e.mode.nposs := Nat.two_pow_pos _
  have hctl : (Fin.ofNat 32 (rateEnd s).c).val = c := by
    rw [hc, Fin.val_ofNat, Nat.mod_eq_of_lt (by omega)]
  refine ⟨rateRows s, Fin.ofNat 32 (rateEnd s).c, (rateEnd s).cat, (rateEnd s).rbits, exec_rateAdj s, by omega,
    fun r hr => vget_rateRows s hr, fun r hr => ?_, fun r hr => ?_, ?_, turn, hturn, ?_⟩
  · rw [hcat r hr, hctl]
    rfl
  · rw [hrbits r hr, hcat r hr]
    rfl
  · rwa [sum_length_eq_codedLength hrbits, hctl]
  · rw [hctl]
    exact ⟨hle, hfiner, hfull, hcoarser, hfits⟩

end Sys2Proof.Machine
end

section
/-! PROOF. The pseudo-random generator and `RAND` (46_vector_quantizer.md). -/

namespace Sys2Proof.Machine

/-! ## One draw (R345) -/

@[simp] theorem vget_randDraw_zero (g : Vector (BitVec 16) 4) :
    vget (randDraw g).2 0 = vget g 0 + vget g 3 := by
  simp [randDraw]

@[simp] theorem vget_randDraw_succ (g : Vector (BitVec 16) 4) {i : Nat} (hi : i < 3) :
    vget (randDraw g).2 (i + 1) = vget g i := by
  simp [randDraw, hi]

/-- The word a draw returns is the new word 0 (R345). -/
theorem randDraw_word (g : Vector (BitVec 16) 4) : (randDraw g).1 = vget (randDraw g).2 0 :=
  (vget_randDraw_zero g).symm

/-- The second draw adds the first one's word to the old word 2 (R345). -/
theorem randDraw_twice_word (g : Vector (BitVec 16) 4) :
    (randDraw (randDraw g).2).1 = vget g 0 + vget g 3 + vget g 2 := by
  rw [randDraw_word, vget_randDraw_zero, vget_randDraw_zero, vget_randDraw_succ g (i := 2) (by decide)]

/-! ## `RAND` -/

theorem exec_rand (s : State) :
    exec .rand s = .next ((s.setD { s.d with rand := (randDraw s.d.rand).2 }).setPort
      { s.port with result := (randDraw s.d.rand).1.setWidth 32 }) := rfl

/-- Settles O53: the register after the draw word by word, and the seed's draws by evaluation. -/
theorem randSumsTwoTapsAndShifts : Obligations.RandSumsTwoTapsAndShifts := by
  refine ⟨fun s => ⟨(randDraw s.d.rand).2, ?_, ?_, ?_, ?_, ?_⟩, by decide⟩
  · rw [exec_rand, randDraw_word]
  · rw [vget_randDraw_zero, BitVec.toNat_add]
  · exact vget_randDraw_succ _ (by decide)
  · exact vget_randDraw_succ _ (by decide)
  · exact vget_randDraw_succ _ (by decide)

end Sys2Proof.Machine
end

section
/-! PROOF. What `NOISE_FILL` writes (46_vector_quantizer.md R343): the inner loop element by element, then the two
halves of a region. -/

namespace Sys2Proof.Machine

/-! ## One element -/

section
variable {α : Type}

/-- Element `j` after the inner loop of R343: where it is filled, its sign is the bit of `w` that the filled
elements before it have left. -/
def noiseElem (amp namp : α) (w : BitVec 16) (fills : Nat → Bool) (j : Nat) (x : α) : α :=
  if fills j then if w.getLsbD ((List.range j).countP fills) then amp else namp else x

variable {amp namp : α} {w : BitVec 16} {fills : Nat → Bool} {j : Nat}

theorem noiseElem_of_filled (h : fills j = true) (x : α) :
    noiseElem amp namp w fills j x = if w.getLsbD ((List.range j).countP fills) then amp else namp := by
  rw [noiseElem, if_pos h]

theorem noiseElem_of_kept (h : ¬ fills j = true) (x : α) : noiseElem amp namp w fills j x = x := by
  rw [noiseElem, if_neg h]

theorem noiseElem_mem (h : fills j = true) (x : α) :
    noiseElem amp namp w fills j x = amp ∨ noiseElem amp namp w fills j x = namp := by
  rw [noiseElem_of_filled h]
  split
  · exact .inl rfl
  · exact .inr rfl

/-- Where every element is filled, element `j` takes bit `j`. -/
theorem noiseElem_of_all (h : ∀ i, fills i = true) (x : α) :
    noiseElem amp namp w fills j x = if w.getLsbD j then amp else namp := by
  have hcount : (List.range j).countP fills = j := by
    rw [List.countP_eq_length.mpr fun i _ => h i, List.length_range]
  rw [noiseElem_of_filled (h j), hcount]

/-- Past a filled element the loop has used up one bit. -/
theorem noiseElem_succ_of_filled (h : fills 0 = true) (x : α) :
    noiseElem amp namp w fills (j + 1) x =
      noiseElem amp namp (w >>> 1) (fun i => fills (i + 1)) j x := by
  have hcount : (List.range (j + 1)).countP fills = 1 + (List.range j).countP fun i => fills (i + 1) := by
    rw [List.range_succ_eq_map, List.countP_cons_of_pos h, List.countP_map, Nat.add_comm]
    rfl
  rw [noiseElem, noiseElem, hcount, BitVec.getLsbD_ushiftRight]

/-- Past a kept element it has used up none. -/
theorem noiseElem_succ_of_kept (h : ¬ fills 0 = true) (x : α) :
    noiseElem amp namp w fills (j + 1) x = noiseElem amp namp w (fun i => fills (i + 1)) j x := by
  have hcount : (List.range (j + 1)).countP fills = (List.range j).countP fun i => fills (i + 1) := by
    rw [List.range_succ_eq_map, List.countP_cons_of_neg h, List.countP_map]
    rfl
  rw [noiseElem, noiseElem, hcount]

end

section
variable {α : Type} [Inhabited α] (all : Bool) (isZero : α → Bool) (amp namp : α)

/-- Whether the inner loop of R343 from element `p` on fills the element `i` places further. -/
def noiseFills (v : Vector α 640) (p i : Nat) : Bool := all || isZero (vget v (p + i))

theorem noiseFills_succ (v : Vector α 640) (p : Nat) :
    (fun i => noiseFills all isZero v p (i + 1)) = noiseFills all isZero v (p + 1) := by
  funext i
  rw [noiseFills, noiseFills, Nat.add_right_comm, Nat.add_assoc]

/-- A store before the loop's first element does not change what it fills. -/
theorem noiseFills_vset (v : Vector α 640) (p : Nat) (x : α) :
    noiseFills all isZero (vset v p x) (p + 1) = noiseFills all isZero v (p + 1) := by
  funext i
  rw [noiseFills, noiseFills, vget_vset_ne _ _ (by omega)]

/-! ## The inner loop (R343) -/

theorem fillRun_succ_of_filled {v : Vector α 640} {p : Nat} (h : noiseFills all isZero v p 0 = true) (k : Nat)
    (w : BitVec 16) : fillRun all isZero amp namp (k + 1) p w v =
      fillRun all isZero amp namp k (p + 1) (w >>> 1) (vset v p (if w.getLsbD 0 then amp else namp)) := by
  rw [fillRun]
  exact if_pos h

theorem fillRun_succ_of_kept {v : Vector α 640} {p : Nat} (h : ¬ noiseFills all isZero v p 0 = true) (k : Nat)
    (w : BitVec 16) : fillRun all isZero amp namp (k + 1) p w v =
      fillRun all isZero amp namp k (p + 1) w v := by
  rw [fillRun]
  exact if_neg h

theorem vget_fillRun_outside {k p q : Nat} (hq : q < p ∨ p + k ≤ q) (w : BitVec 16) (v : Vector α 640) :
    vget (fillRun all isZero amp namp k p w v) q = vget v q := by
  induction k generalizing p w v with
  | zero => rfl
  | succ k ih =>
    by_cases hfill : noiseFills all isZero v p 0 = true
    · rw [fillRun_succ_of_filled _ _ _ _ hfill, ih (by omega), vget_vset_ne _ _ (by omega)]
    · rw [fillRun_succ_of_kept _ _ _ _ hfill, ih (by omega)]

theorem vget_fillRun_inside {k p j : Nat} (hj : j < k) (hin : p + k ≤ 640) (w : BitVec 16)
    (v : Vector α 640) : vget (fillRun all isZero amp namp k p w v) (p + j) =
      noiseElem amp namp w (noiseFills all isZero v p) j (vget v (p + j)) := by
  induction k generalizing p j w v with
  | zero => cases hj
  | succ k ih =>
    by_cases hfill : noiseFills all isZero v p 0 = true
    · rw [fillRun_succ_of_filled _ _ _ _ hfill]
      cases j with
      | zero =>
        rw [vget_fillRun_outside _ _ _ _ (by omega), Nat.add_zero, vget_vset_self _ _ (by omega),
          noiseElem_of_filled hfill]
        rfl
      | succ j =>
        rw [noiseElem_succ_of_filled hfill, noiseFills_succ, Nat.add_comm j, ← Nat.add_assoc,
          ih (by omega) (by omega), noiseFills_vset, vget_vset_ne _ _ (by omega)]
    · rw [fillRun_succ_of_kept _ _ _ _ hfill]
      cases j with
      | zero => rw [vget_fillRun_outside _ _ _ _ (by omega), noiseElem_of_kept hfill]
      | succ j =>
        rw [noiseElem_succ_of_kept hfill, noiseFills_succ, Nat.add_comm j, ← Nat.add_assoc,
          ih (by omega) (by omega)]

/-! ## The two halves (R343) -/

theorem vget_fillRegion_outside {r p : Nat} (hp : p < 20 * r ∨ 20 * r + 20 ≤ p) (w0 w1 : BitVec 16)
    (v : Vector α 640) : vget (fillRegion all isZero amp namp r w0 w1 v) p = vget v p := by
  rw [fillRegion, vget_fillRun_outside _ _ _ _ (by omega), vget_fillRun_outside _ _ _ _ (by omega)]

/-- The second half sees its own elements as they were before the first. -/
theorem noiseFills_secondHalf (v : Vector α 640) (p : Nat) (w : BitVec 16) :
    noiseFills all isZero (fillRun all isZero amp namp 10 p w v) (p + 10) =
      noiseFills all isZero v (p + 10) := by
  funext i
  rw [noiseFills, noiseFills, vget_fillRun_outside _ _ _ _ (by omega)]

theorem vget_fillRegion_half {r half j : Nat} (hr : r < 28) (hhalf : half < 2) (hj : j < 10)
    (w0 w1 : BitVec 16) (v : Vector α 640) :
    vget (fillRegion all isZero amp namp r w0 w1 v) (20 * r + 10 * half + j) =
      noiseElem amp namp (if half = 0 then w0 else w1)
        (noiseFills all isZero v (20 * r + 10 * half)) j (vget v (20 * r + 10 * half + j)) := by
  rw [fillRegion]
  match half, hhalf with
  | 0, _ =>
    rw [vget_fillRun_outside _ _ _ _ (by omega), Nat.mul_zero, Nat.add_zero,
      vget_fillRun_inside _ _ _ _ hj (by omega), if_pos rfl]
  | 1, _ =>
    rw [Nat.mul_one, vget_fillRun_inside _ _ _ _ hj (by omega), noiseFills_secondHalf,
      vget_fillRun_outside _ _ _ _ (by omega), if_neg Nat.one_ne_zero]

/-- `u` is `v` after noise fill of region `r` with the draws `w0` and `w1` (R343). -/
structure RegionNoise (c r : Nat) (w0 w1 : BitVec 16) (v u : Vector α 640) : Prop where
  outside : ∀ p, p < 20 * r ∨ 20 * r + 20 ≤ p → vget u p = vget v p
  inside : ∀ p, 20 * r ≤ p → p < 20 * r + 20 →
    if c = 7 ∨ isZero (vget v p) = true then vget u p = amp ∨ vget u p = namp else vget u p = vget v p
  whole : c = 7 → ∀ j < 10,
    vget u (20 * r + j) = (if w0.getLsbD j then amp else namp) ∧
    vget u (20 * r + 10 + j) = (if w1.getLsbD j then amp else namp)
  sign : ∀ half < 2, ∀ j < 10, noiseFills (c == 7) isZero v (20 * r + 10 * half) j = true →
    vget u (20 * r + 10 * half + j) =
      if (if half = 0 then w0 else w1).getLsbD
        ((List.range j).countP (noiseFills (c == 7) isZero v (20 * r + 10 * half))) then amp else namp

theorem noiseFills_iff (c : Nat) (v : Vector α 640) (p i : Nat) :
    noiseFills (c == 7) isZero v p i = true ↔ c = 7 ∨ isZero (vget v (p + i)) = true := by
  rw [noiseFills, Bool.or_eq_true, beq_iff_eq]

/-- Every element of a region stands in one of its halves. -/
theorem exists_half {r p : Nat} (hlo : 20 * r ≤ p) (hhi : p < 20 * r + 20) :
    ∃ half < 2, ∃ j < 10, p = 20 * r + 10 * half + j :=
  ⟨(p - 20 * r) / 10, by omega, (p - 20 * r) % 10, by omega, by omega⟩

theorem fillRegion_regionNoise {c r : Nat} (hr : r < 28) (w0 w1 : BitVec 16) (v : Vector α 640) :
    RegionNoise isZero amp namp c r w0 w1 v (fillRegion (c == 7) isZero amp namp r w0 w1 v) where
  outside p hp := vget_fillRegion_outside _ _ _ _ hp _ _ _
  inside p hlo hhi := by
    obtain ⟨half, hhalf, j, hj, rfl⟩ := exists_half hlo hhi
    rw [vget_fillRegion_half _ _ _ _ hr hhalf hj]
    split
    next hfill => exact noiseElem_mem ((noiseFills_iff _ _ _ _ _).mpr hfill) _
    next hkept => exact noiseElem_of_kept (fun h => hkept ((noiseFills_iff _ _ _ _ _).mp h)) _
  whole hc j hj := by
    have hall : ∀ p i, noiseFills (c == 7) isZero v p i = true := fun p i =>
      (noiseFills_iff _ _ _ _ _).mpr (.inl hc)
    have helem : ∀ half < 2, vget (fillRegion (c == 7) isZero amp namp r w0 w1 v) (20 * r + 10 * half + j) =
        if (if half = 0 then w0 else w1).getLsbD j then amp else namp := fun half hhalf => by
      rw [vget_fillRegion_half _ _ _ _ hr hhalf hj, noiseElem_of_all (hall _)]
    exact ⟨helem 0 (by decide), helem 1 (by decide)⟩
  sign half hhalf j hj hfill := by
    rw [vget_fillRegion_half _ _ _ _ hr hhalf hj, noiseElem_of_filled hfill]

end

/-! ## `NOISE_FILL` -/

theorem exec_noiseFill_below {s : State} (hc : (vget s.w.cat s.seq.region.val).val < 5) :
    exec .noiseFill s = .next s :=
  if_pos hc

theorem exec_noiseFill_from_five {s : State} (hc : 5 ≤ (vget s.w.cat s.seq.region.val).val) :
    exec .noiseFill s = .next ((s.setW { s.w with
      coef := noiseCoef s.build s.w.sd s.seq.region.val (vget s.w.cat s.seq.region.val).val
        (randDraw s.d.rand).1 (randDraw (randDraw s.d.rand).2).1 s.w.coef }).setD
      { s.d with rand := (randDraw (randDraw s.d.rand).2).2 }) :=
  if_neg (Nat.not_lt.mpr hc)

section
variable {b : Build} (sd : SigReg 28) {r : Nat} (c : Nat) (w0 w1 : BitVec 16) (coef : SigReg 640)

/-- In `FIXED` the face of integers is filled, the other stays (R343). -/
theorem noiseCoef_fixed (hb : b.backend = .fixed) (hr : r < 28) :
    (noiseCoef b sd r c w0 w1 coef).fl = coef.fl ∧
      RegionNoise (fun x => x == 0#16) (mult16 (vget sd.fx r) (vget b.rom.i16.noise (c - 5)))
        (neg16 (mult16 (vget sd.fx r) (vget b.rom.i16.noise (c - 5)))) c r w0 w1 coef.fx
        (noiseCoef b sd r c w0 w1 coef).fx := by
  rw [noiseCoef, hb, SigReg.put_fixed]
  exact ⟨rfl, fillRegion_regionNoise _ _ _ hr _ _ _⟩

/-- The same in `FLOAT`. -/
theorem noiseCoef_float (hb : b.backend = .float) (hr : r < 28) :
    (noiseCoef b sd r c w0 w1 coef).fx = coef.fx ∧
      RegionNoise (fun x => Config.fEq x (Config.fOfInt 0))
        (Config.fMul (vget sd.fl r) (vget b.rom.flt.noise (c - 5)))
        (Config.fNeg (Config.fMul (vget sd.fl r) (vget b.rom.flt.noise (c - 5)))) c r w0 w1 coef.fl
        (noiseCoef b sd r c w0 w1 coef).fl := by
  rw [noiseCoef, hb, SigReg.put_float]
  exact ⟨rfl, fillRegion_regionNoise _ _ _ hr _ _ _⟩

end

/-- Settles O52: the two draws, then the two halves of the region in the build's backend. -/
theorem noiseFillReplacesZerosWithTwoDraws : Obligations.NoiseFillReplacesZerosWithTwoDraws := by
  intro s r c g w0 w1
  have hr : r < 28 := s.seq.region.isLt
  have hfirst : (randDraw s.d.rand).1 = w0 := rfl
  have hsecond : (randDraw (randDraw s.d.rand).2).1 = w1 := randDraw_twice_word s.d.rand
  refine ⟨exec_noiseFill_below, fun hc => ⟨noiseCoef s.build s.w.sd r c w0 w1 s.w.coef,
    (randDraw (randDraw s.d.rand).2).2, ?_, ?_, ?_, ?_, ?_, fun hb => ?_, fun hb => ?_⟩⟩
  · rw [exec_noiseFill_from_five hc, hfirst, hsecond]
  · rw [← randDraw_word, hsecond]
  · rw [vget_randDraw_succ _ (i := 0) (by decide), vget_randDraw_zero]
  · rw [vget_randDraw_succ _ (i := 1) (by decide), vget_randDraw_succ _ (i := 0) (by decide)]
  · rw [vget_randDraw_succ _ (i := 2) (by decide), vget_randDraw_succ _ (i := 1) (by decide)]
  · obtain ⟨hfl, outside, inside, whole, sign⟩ := noiseCoef_fixed s.w.sd c w0 w1 s.w.coef hb hr
    simp only [beq_iff_eq] at inside
    exact ⟨hfl, outside, inside, whole, sign⟩
  · obtain ⟨hfx, outside, inside, whole, sign⟩ := noiseCoef_float s.w.sd c w0 w1 s.w.coef hb hr
    exact ⟨hfx, outside, inside, whole, sign⟩

end Sys2Proof.Machine
end

section
/-! PROOF. `SET_RATE` and `RELEASE` of a side with a context (47_frame_commands.md R365, R367): `CMD_CHECK` lets
them pass, and their bodies write what the rules name. -/

namespace Sys2Proof.Machine

theorem exec_setRate {s : State} (side : Side) (hv : validOf s side = true)
    (hl : legalRate s.arg0.toNat = true) :
    exec (.setRate side) s = .next (setRateBody side (beginCommand (wordOf (.setRate side)) 0 s)) :=
  runCommand_pass (i := .setRate side) rfl rfl (fun c hc => by cases hc; exact hv) hl (Nat.zero_le _)
    fun t => .next (setRateBody side t)

theorem exec_release {s : State} (side : Side) (hv : validOf s side = true) :
    exec (.release side) s = .next (releaseBody side (beginCommand (wordOf (.release side)) 0 s)) :=
  runCommand_pass (i := .release side) rfl rfl (fun c hc => by cases hc; exact hv) rfl (Nat.zero_le _)
    fun t => .next (releaseBody side t)

/-- Settles O17. -/
theorem setRateChangesOnlyTheRate : Obligations.SetRateChangesOnlyTheRate := by
  intro s h1 h2 h3
  have hl : legalRate s.arg0.toNat = true := by simp [legalRate, h1, h2, h3]
  have hrate : s.arg0.setWidth 16 = BitVec.ofNat 16 s.arg0.toNat := BitVec.eq_of_toNat_eq (by simp)
  refine ⟨fun hv => ?_, fun hv => ?_⟩
  · rw [exec_setRate .enc hv hl, setRateBody, beginCommand_arg0, hrate]
    rfl
  · rw [exec_setRate .dec hv hl, setRateBody, beginCommand_arg0, hrate]
    rfl

/-- Settles O18: the released side is the next free value, not valid. -/
theorem releaseInvalidatesItsSide : Obligations.ReleaseInvalidatesItsSide := fun s =>
  ⟨fun hv => ⟨{ Config.freeEncoder s.freeCount with valid := false }, rfl, exec_release .enc hv⟩,
    fun hv => ⟨{ Config.freeDecoder s.freeCount with valid := false }, rfl, exec_release .dec hv⟩⟩

end Sys2Proof.Machine
end

section
/-! PROOF. `FILL_IN` completes from the history alone (47_frame_commands.md R383): every frame is a bad one, so
that `CONCEAL` puts the generator back (60_exceptions.md R414) and the record counts it (R411). -/

namespace Sys2Proof.Machine

/-! ## The record of erased frames (R410, R411) -/

/-- R411: the fields of `ERRINFO` side by side, as a number. -/
theorem errInfoWord_toNat (q : SeqRegs) :
    (errInfoWord q).toNat = q.nconc.toNat * 65536 + q.orf.toNat * 16 + q.last.toNat := by
  have horf : q.orf.toNat < 2 ^ 4 := q.orf.isLt
  have hlast : q.last.toNat < 2 ^ 4 := q.last.isLt
  simp only [errInfoWord, BitVec.toNat_append, BitVec.toNat_ofNat]
  rw [← Nat.shiftLeft_add_eq_or_of_lt hlast, ← Nat.shiftLeft_add_eq_or_of_lt horf,
    ← Nat.shiftLeft_add_eq_or_of_lt (by decide)]
  simp only [Nat.shiftLeft_eq]
  omega

/-- The accumulators of `ERRINFO` after `n` erased frames and no other. -/
structure ErasedRecord (n : Nat) (q : SeqRegs) : Prop where
  last : q.last = if n = 0 then 0#4 else ferrErased
  orf : q.orf = if n = 0 then 0#4 else ferrErased
  nconc : q.nconc = BitVec.ofNat 16 (min 65535 n)

section
variable {n : Nat} {q : SeqRegs}

theorem ErasedRecord.recordFrame (h : ErasedRecord n q) :
    ErasedRecord (n + 1) (recordFrame ferrErased q) where
  last := rfl
  orf := by
    show q.orf ||| ferrErased = ferrErased
    rw [h.orf]
    split <;> rfl
  nconc := by
    show BitVec.ofNat 16 (min 65535 (q.nconc.toNat + 1)) = _
    have hcount : q.nconc.toNat = min 65535 n := by
      rw [h.nconc, BitVec.toNat_ofNat]
      omega
    congr 1
    omega

theorem ErasedRecord.errInfoWord (h : ErasedRecord n q) : errInfoWord q =
    if n = 0 then 0#32 else BitVec.ofNat 32 (min 65535 n * 65536 + 0x88) := by
  apply BitVec.eq_of_toNat_eq
  rw [errInfoWord_toNat, h.last, h.orf, h.nconc, BitVec.toNat_ofNat]
  split
  next hz =>
    subst hz
    rfl
  next =>
    rw [BitVec.toNat_ofNat, ferrErased, BitVec.toNat_ofNat]
    omega

theorem ErasedRecord.ferrAnyOf (h : ErasedRecord n q) : ferrAnyOf q = true ↔ 0 < n := by
  rw [ferrAnyOf_eq, h.nconc, decide_eq_true_eq, BitVec.toNat_ofNat]
  omega

end

/-! ## A frame of `FILL_IN` -/

/-- During an erased frame after `n` others: the flag stands, and the generator is the one that the start of the
frame saved. -/
structure Erasing (saved : Vector (BitVec 16) 4) (n : Nat) (s : State) : Prop where
  ferr : s.w.ferr = ferrErased
  snapshot : s.w.randsnap = saved
  rand : s.d.rand = saved
  record : ErasedRecord n s.seq

section
variable {saved : Vector (BitVec 16) 4} {n : Nat}

theorem Erasing.setPhase {s : State} (h : Erasing saved n s) (c : Byte) : Erasing saved n (s.setPhase c) :=
  ⟨h.ferr, h.snapshot, h.rand, h.record.last, h.record.orf, h.record.nconc⟩

/-- `CONCEAL` puts the saved generator back (60_exceptions.md R414); the others do not write it. -/
theorem concealUop_erasing {i : Instr} (hi : i ∈ concealUops) : Keeps (Erasing saved n) (exec i) := by
  intro s t ⟨hferr, hsnap, hrand, hrec⟩ h
  cases i with
  | conceal =>
    cases h
    refine ⟨hferr, hsnap, ?_, hrec⟩
    show (if decide (s.w.ferr ≠ 0#4) then s.w.randsnap else s.d.rand) = saved
    rw [hsnap, hrand, ite_self]
  | storePcm => obtain ⟨-, rfl⟩ := execStorePcm_next h; exact ⟨hferr, hsnap, hrand, hrec⟩
  | dct4Inv | winSyn => cases h; exact ⟨hferr, hsnap, hrand, hrec⟩
  | _ => simp [concealUops] at hi

theorem concealTurn_erasing {i : Instr} (hi : i ∈ concealUops) : Keeps (Erasing saved n) (turn i) :=
  fun _ t hs h => concealUop_erasing hi _ t (hs.setPhase _) h

/-- Steps 9 to 12 of R376 in their turns, then the record of step 13. -/
theorem concealTail_next {s t : State} (h : concealTail s = .next t) :
    ∃ u, runAll (concealUops.map turn) s = .next u ∧ t = frameEnd u := by
  have hparts : concealTail = runAll (concealUops.map turn ++ [act frameEnd]) := rfl
  rw [hparts, runAll_append] at h
  obtain ⟨u, hu, hend⟩ := thenDo_eq_next.mp h
  cases hend
  exact ⟨u, hu, rfl⟩

theorem Erasing.concealTail {s t : State} (hs : Erasing saved n s) (h : concealTail s = .next t) :
    t.d.rand = saved ∧ ErasedRecord (n + 1) t.seq := by
  obtain ⟨u, hu, rfl⟩ := concealTail_next h
  have hkeeps : Keeps (Erasing saved n) (runAll (concealUops.map turn)) :=
    .runAll (List.forall_mem_map.mpr fun _ hi => concealTurn_erasing hi)
  obtain ⟨hferr, -, hrand, hrec⟩ := hkeeps s u hs hu
  rw [frameEnd_seq, hferr]
  exact ⟨hrand, hrec.recordFrame⟩

end

section
variable {s₀ : State} {f : Nat}

/-- Before frame `f` of a `FILL_IN` from `s₀`: as before a frame of `DECODE`, with the generator as it was and
every frame recorded as erased. -/
structure FillAt (s₀ : State) (f : Nat) (s : State) : Prop where
  decode : DecodeAt s₀ f s
  rand : s.d.rand = s₀.d.rand
  record : ErasedRecord f s.seq

theorem FillAt.setFrame {s : State} (h : FillAt s₀ f s) (k : Nat) : FillAt s₀ f (s.setFrame k) :=
  ⟨h.decode.setSeq rfl, h.rand, h.record.last, h.record.orf, h.record.nconc⟩

/-- The start of a frame saves the generator and sets `ERASED` (R383 step 0). -/
theorem FillAt.erasing {s : State} (h : FillAt s₀ f s) : Erasing s₀.d.rand f (fillFrameStart s) :=
  ⟨rfl, h.rand, h.rand, h.record⟩

theorem fillFrame_completes (hf : f < s₀.seq.nframes) (hn : s₀.seq.nframes ≤ s₀.build.maxFrames) :
    Completes (fun s => FillAt s₀ f s ∧ s.seq.frame = f) fillFrame (FillAt s₀ (f + 1)) := by
  rintro s ⟨hat, hframe⟩
  obtain ⟨t, ht, hdecode⟩ :=
    concealTail_completes hf hn (fillFrameStart s) ⟨hat.decode.setW _, hframe⟩
  obtain ⟨hrand, hrec⟩ := hat.erasing.concealTail ht
  have hfill : fillFrame s = thenDo (concealTail (fillFrameStart s)) (runAll []) := rfl
  exact ⟨t, by rw [hfill, thenDo_runAll_nil, ht], hdecode, hrand, hrec⟩

end

/-! ## The command -/

theorem fillAt_start (s₀ : State) : FillAt (clearRecord s₀) 0 (clearRecord s₀) :=
  ⟨⟨.refl _, rfl, rfl, by simp, fun _ _ => rfl⟩, rfl, rfl, rfl, rfl⟩

/-- Settles O21: `CMD_CHECK` passes, each frame completes with nothing read and is recorded as erased. -/
theorem fillInCompletesFromHistoryAlone : Obligations.FillInCompletesFromHistoryAlone := by
  intro s hv hl hn
  obtain ⟨-, hbytes, -⟩ := frameBytes_of_legalRate hl
  have hbytes : decBypf s = s.d.rate.toNat / 400 := hbytes
  rw [← hbytes] at hn ⊢
  have hpass := runCommand_pass (i := .fillIn .dec) (s := s) rfl rfl (fun side h => by cases h; exact hv)
    rfl hn fillInBody
  obtain ⟨u, hu, ⟨hrun, hport, hnf, hwritten, hkept⟩, hrand, hrec⟩ := Completes.frameLoop
    (fun f hf => fillFrame_completes (s₀ := clearRecord (beginCommand (wordOf (.fillIn .dec))
      (s.arg0.toNat / decBypf s) s)) hf hn)
    (fun f t ht => ht.setFrame f) (s.arg0.toNat / decBypf s) 0 (by simp) _ (fillAt_start _)
  rw [Nat.zero_add] at hwritten hkept hrec
  have hexec : exec (.fillIn .dec) s = .next (finishDecode u) :=
    hpass.trans (thenDo_eq_next.mpr ⟨u, hu, rfl⟩)
  obtain ⟨-, hbs, hmode, -⟩ := hrun.same
  have hresult : (finishDecode u).result =
      BitVec.ofNat 32 (s.arg0.toNat / decBypf s * s.d.mode.blk) := by
    rw [finishDecode, complete_result, hnf, hmode]
    rfl
  have hbytesKept (a : Nat) : Memory.read (w := 8) u.bs a = Memory.read (w := 8) s.bs a := by
    rw [hbs]
    rfl
  obtain ⟨-, hbr⟩ := fillFrames_run hu
  refine ⟨_, hexec, rfl, hresult, rfl, hrec.errInfoWord, hrec.ferrAnyOf, hwritten, hkept, hbytesKept, hrand,
    hbr, ?_⟩
  obtain ⟨_, _, _, _, _, _, _, _, _, rfl⟩ := hrun
  exact ⟨hv, rfl, rfl, rfl, rfl, rfl, rfl, rfl, hport⟩

end Sys2Proof.Machine
end

section
/-! PROOF. The three command errors that a decoded command can take (60_exceptions.md R401, R402, R404): each
check of `CMD_CHECK` that fails refuses the command, and taking the error is all that happens (R405). -/

namespace Sys2Proof.Machine

/-! ## A failing check -/

section
variable {i : Instr} {s : State}

/-- Check 2 of R360: the side has no context. -/
theorem checkCommand_noCtx (hc : i.isCommand = true) (hw : i.wellFormed = true) {side : Side}
    (hside : needsContext i = some side) (hv : validOf s side = false) :
    checkCommand (wordOf i) s = .error .noCtx := by
  simp [checkCommand, decodeCommand_wordOf hc hw, hside, hv]

theorem needsContext_any_eq_false (hctx : ∀ side, needsContext i = some side → validOf s side = true) :
    (needsContext i).any (fun side => !validOf s side) = false := by
  cases hside : needsContext i with
  | none => rfl
  | some side => simp [hctx side hside]

/-- Check 3 of R360: the operands are not legal. -/
theorem checkCommand_cfgErr (hc : i.isCommand = true) (hw : i.wellFormed = true)
    (hctx : ∀ side, needsContext i = some side → validOf s side = true) (hl : configLegal i s = false) :
    checkCommand (wordOf i) s = .error .cfgErr := by
  simp [checkCommand, decodeCommand_wordOf hc hw, needsContext_any_eq_false hctx, hl]

/-- Check 4 of R360: more frames than the buffers hold. -/
theorem checkCommand_bufErr (hc : i.isCommand = true) (hw : i.wellFormed = true)
    (hctx : ∀ side, needsContext i = some side → validOf s side = true) (hl : configLegal i s = true)
    (hn : s.build.maxFrames < nframesOf i s) : checkCommand (wordOf i) s = .error .bufErr := by
  simp [checkCommand, decodeCommand_wordOf hc hw, needsContext_any_eq_false hctx, hl, hn]

/-- Every command runs its checks first, and one that fails is taken as a command error (R361, R405). -/
theorem exec_of_checkCommand_error (hc : i.isCommand = true) {err : CmdErr}
    (h : checkCommand (wordOf i) s = .error err) : exec i s = .next (commandError err s) := by
  cases i with
  | init side => exact runCommand_error (body := fun t => .next (initBody side t)) h
  | setRate side => exact runCommand_error (body := fun t => .next (setRateBody side t)) h
  | release side => exact runCommand_error (body := fun t => .next (releaseBody side t)) h
  | encode side | decode side | fillIn side => exact runCommand_error h
  | _ => cases hc

theorem exec_frameCommand_bufErr {side : Side} (hi : i ∈ [.encode .enc, .decode .dec, .fillIn .dec])
    (hside : needsContext i = some side) (hv : validOf s side = true)
    (hn : s.build.maxFrames < nframesOf i s) : exec i s = .next (commandError .bufErr s) := by
  have hctx (c : Side) (hneeds : needsContext i = some c) : validOf s c = true := by
    obtain rfl : side = c := Option.some.inj (hside.symm.trans hneeds)
    exact hv
  simp only [List.mem_cons, List.not_mem_nil, or_false] at hi
  rcases hi with rfl | rfl | rfl <;>
    exact exec_of_checkCommand_error rfl (checkCommand_bufErr rfl rfl hctx rfl hn)

end

/-! ## Illegal operands (R103) -/

theorem modeOfSelector_eq_none {a : Word} (h16 : a.toNat ≠ 16000) (h32 : a.toNat ≠ 32000) :
    modeOfSelector a = none := by
  have hne16 : a ≠ 16000#32 := fun h => h16 (by rw [h]; rfl)
  have hne32 : a ≠ 32000#32 := fun h => h32 (by rw [h]; rfl)
  simp [modeOfSelector, hne16, hne32]

theorem legalRate_eq_false {r : Nat} (h : ¬(16000 ≤ r ∧ r ≤ 48000 ∧ r % 800 = 0)) : legalRate r = false := by
  rw [Bool.eq_false_iff]
  simpa [legalRate, and_assoc] using h

/-! ## The obligations -/

/-- Settles O13: check 2 fails, whichever of the five commands it is. -/
theorem commandsWithoutContextReportNoCtxOnly : Obligations.CommandsWithoutContextReportNoCtxOnly := by
  intro i side s hi hv
  have hparts : i.isCommand = true ∧ i.wellFormed = true ∧ needsContext i = some side := by
    rcases hi with rfl | rfl | ⟨rfl, rfl⟩ | ⟨rfl, rfl | rfl⟩ <;> exact ⟨rfl, rfl, rfl⟩
  obtain ⟨hc, hw, hside⟩ := hparts
  exact exec_of_checkCommand_error hc (checkCommand_noCtx hc hw hside hv)

/-- Settles O14: check 3 fails; `INIT` needs no context, `SET_RATE` has it. -/
theorem illegalOperandsReportCfgErrOnly : Obligations.IllegalOperandsReportCfgErrOnly := by
  intro side s legal refused
  refine ⟨fun hbad => ?_, fun hv hrate => ?_⟩
  · have hl : configLegal (.init side) s = false := by
      rcases hbad with hrate | ⟨h16, h32⟩
      · simp [configLegal, legalRate_eq_false hrate]
      · simp [configLegal, modeOfSelector_eq_none h16 h32]
    exact exec_of_checkCommand_error rfl (checkCommand_cfgErr (i := .init side) rfl rfl nofun hl)
  · exact exec_of_checkCommand_error rfl (checkCommand_cfgErr (i := .setRate side) rfl rfl
      (fun c hc => by cases hc; exact hv) (legalRate_eq_false hrate))

/-- Settles O15: check 4 fails. -/
theorem tooManyFramesReportBufErrOnly : Obligations.TooManyFramesReportBufErrOnly := fun _ =>
  ⟨fun hv hn => exec_frameCommand_bufErr (by simp) rfl hv hn,
    fun hv hn => ⟨exec_frameCommand_bufErr (by simp) rfl hv hn, exec_frameCommand_bufErr (by simp) rfl hv hn⟩⟩

end Sys2Proof.Machine
end

section
/-! PROOF. `CONCEAL`, the entry into concealment (60_exceptions.md R412 to R414): what it leaves in the
coefficients and what it retains, element by element, in the face of the build's backend. -/

namespace Sys2Proof.Machine

section
variable {α : Type} [Inhabited α] {bad : Bool} {m : Mode} {zero : α} {coef old : Vector α 640} {i : Nat}

/-- R412: the coded coefficients are the retained ones in a bad frame. -/
theorem vget_concealCoef_coded (hi : i < m.nv) :
    vget (concealCoef bad m zero coef old) i = if bad then vget old i else vget coef i := by
  have hlt : i < 640 := (hi.trans_le (nv_le_blk m)).trans_le (blk_le m)
  simp [concealCoef, hi, hlt]

theorem vget_concealCoef_uncoded (hv : m.nv ≤ i) (hi : i < m.blk) :
    vget (concealCoef bad m zero coef old) i = zero := by
  have hlt : i < 640 := hi.trans_le (blk_le m)
  simp [concealCoef, hlt, Nat.not_lt.mpr hv, hi]

theorem vget_concealCoef_above (hi : m.blk ≤ i) :
    vget (concealCoef bad m zero coef old) i = vget coef i := by
  have hv : m.nv ≤ i := (nv_le_blk m).trans hi
  by_cases hlt : i < 640
  · simp [concealCoef, hlt, Nat.not_lt.mpr hv, Nat.not_lt.mpr hi]
  · rw [vget_of_ge _ (Nat.not_lt.mp hlt), vget_of_ge _ (Nat.not_lt.mp hlt)]

/-- R413: the retained memory is cleared after a bad frame, and takes a good one's coefficients. -/
theorem vget_concealOld_coded (hi : i < m.nv) :
    vget (concealOld bad m zero coef old) i = if bad then zero else vget coef i :=
  vget_vfill_lt _ _ hi ((hi.trans_le (nv_le_blk m)).trans_le (blk_le m))

theorem vget_concealOld_above (hi : m.nv ≤ i) :
    vget (concealOld bad m zero coef old) i = vget old i := vget_vfill_ge _ _ hi

/-- R412 and R413 element by element, in one face of the registers. -/
theorem conceal_elements (bad : Bool) (m : Mode) (zero : α) (coef old : Vector α 640) :
    (∀ i < m.nv,
      (bad = true → vget (concealCoef bad m zero coef old) i = vget old i ∧
        vget (concealOld bad m zero coef old) i = zero) ∧
      (¬ bad = true → vget (concealCoef bad m zero coef old) i = vget coef i ∧
        vget (concealOld bad m zero coef old) i = vget coef i)) ∧
    (∀ i, m.nv ≤ i → i < m.blk → vget (concealCoef bad m zero coef old) i = zero) ∧
    (∀ i, m.blk ≤ i → vget (concealCoef bad m zero coef old) i = vget coef i) ∧
    ∀ i, m.nv ≤ i → vget (concealOld bad m zero coef old) i = vget old i := by
  refine ⟨fun i hi => ?_, fun i => vget_concealCoef_uncoded, fun i => vget_concealCoef_above,
    fun i => vget_concealOld_above⟩
  rw [vget_concealCoef_coded hi, vget_concealOld_coded hi]
  exact ⟨fun h => by simp [h], fun h => by simp [h]⟩

end

/-- Settles O56: the shift and the generator by the flags, then the elements in the build's face. -/
theorem concealSubstitutesAndForgetsOrRemembers : Obligations.ConcealSubstitutesAndForgetsOrRemembers := by
  intro s nv blk bad
  have hbad : decide (s.w.ferr ≠ 0#4) = true ↔ bad := decide_eq_true_iff
  refine ⟨_, _, _, _, _, rfl, fun h => ?_, fun h => ?_, fun hb => ?_, fun hb => ?_⟩
  · simp only [hbad.mpr h, if_true, and_self]
  · simp only [eq_false_of_ne_true (mt hbad.mp h), Bool.false_eq_true, if_false, and_self]
  · have helem := conceal_elements (decide (s.w.ferr ≠ 0#4)) s.d.mode 0#16 s.w.coef.fx s.d.oldcoef.fx
    rw [hbad] at helem
    simp only [hb, SigReg.put_fixed, true_and]
    exact helem
  · have helem := conceal_elements (decide (s.w.ferr ≠ 0#4)) s.d.mode (Config.fOfInt 0) s.w.coef.fl
      s.d.oldcoef.fl
    rw [hbad] at helem
    simp only [hb, SigReg.put_float, true_and]
    exact helem

end Sys2Proof.Machine
end

section
/-! PROOF. Two `DECODE`s whose frames are all bad (60_exceptions.md R412 to R414, scenario E5): up to `CONCEAL` a
frame touches nothing but working registers, the read cursor and the generator, `CONCEAL` takes the retained
coefficients and puts the generator back, and the rest of the frame reads only those. -/

namespace Sys2Proof.Machine

/-! ## What the end of a bad frame reads -/

/-- The two states have the same decoder but for the read cursor, the same samples, build and frame number. -/
structure SameDecoder (s t : State) : Prop where
  build : t.build = s.build
  dec : ∃ br, t.d = { s.d with br := br }
  pcm : t.pcm = s.pcm
  frame : t.seq.frame = s.seq.frame

theorem SameDecoder.refl (s : State) : SameDecoder s s := ⟨rfl, ⟨_, rfl⟩, rfl, rfl⟩

theorem SameDecoder.symm {s t : State} (h : SameDecoder s t) : SameDecoder t s := by
  obtain ⟨hbuild, ⟨br, hd⟩, hpcm, hframe⟩ := h
  exact ⟨hbuild.symm, ⟨s.d.br, by rw [hd]⟩, hpcm.symm, hframe.symm⟩

theorem SameDecoder.trans {s t u : State} (h : SameDecoder s t) (k : SameDecoder t u) : SameDecoder s u := by
  obtain ⟨hbuild, ⟨br, hd⟩, hpcm, hframe⟩ := h
  obtain ⟨hbuild', ⟨br', hd'⟩, hpcm', hframe'⟩ := k
  exact ⟨hbuild'.trans hbuild, ⟨br', by rw [hd', hd]⟩, hpcm'.trans hpcm, hframe'.trans hframe⟩

/-- The generator as `CONCEAL` puts it back in a bad frame (R414). -/
def restored (s : State) : State := s.setD { s.d with rand := s.w.randsnap }

/-! ## A frame up to `CONCEAL` -/

/-- Since the frame started in `s₀`, nothing that the end of a bad frame reads has changed once the generator is
put back, and nothing has been recorded. -/
structure BeforeConceal (s₀ s : State) : Prop where
  same : SameDecoder s₀ (restored s)
  nconc : s.seq.nconc = s₀.seq.nconc

/-- The micro-operations of a `DECODE` frame before `CONCEAL`: steps 1 to 8 of R376. -/
def readingUops : List Instr :=
  [.bsRinit, .pwrDec, .sdShift, .categorize, .catReplay, .vqDec, .noiseFill, .frameCheck]

section
variable {s₀ : State}

theorem BeforeConceal.setSeq {s : State} (h : BeforeConceal s₀ s) {q : SeqRegs}
    (hframe : q.frame = s.seq.frame) (hnconc : q.nconc = s.seq.nconc) : BeforeConceal s₀ (s.setSeq q) :=
  ⟨⟨h.same.build, h.same.dec, h.same.pcm, hframe.trans h.same.frame⟩, hnconc.trans h.nconc⟩

theorem BeforeConceal.setW {s : State} (h : BeforeConceal s₀ s) {w : WorkRegs}
    (hw : w.randsnap = s.w.randsnap) : BeforeConceal s₀ (s.setW w) := by
  refine ⟨⟨h.same.build, ?_, h.same.pcm, h.same.frame⟩, h.nconc⟩
  obtain ⟨br, hd⟩ := h.same.dec
  exact ⟨br, by rw [← hd]; simp [restored, hw]⟩

theorem BeforeConceal.setPhase {s : State} (h : BeforeConceal s₀ s) (c : Byte) :
    BeforeConceal s₀ (s.setPhase c) := h.setSeq rfl rfl

/-- The read cursor and the generator may change. -/
theorem BeforeConceal.setD {s : State} (h : BeforeConceal s₀ s) {d : Decoder}
    (hd : d = { s.d with rand := d.rand, br := d.br }) : BeforeConceal s₀ (s.setD d) := by
  obtain ⟨br, hdec⟩ := h.same.dec
  have hkept : (restored (s.setD d)).d = { s₀.d with br := d.br } := calc
    (restored (s.setD d)).d = { (restored s).d with br := d.br } := by rw [hd]; rfl
    _ = { s₀.d with br := d.br } := by rw [hdec]
  exact ⟨⟨h.same.build, ⟨_, hkept⟩, h.same.pcm, h.same.frame⟩, h.nconc⟩

theorem BeforeConceal.setW_setD {s : State} (h : BeforeConceal s₀ s) {w : WorkRegs} {d : Decoder}
    (hw : w.randsnap = s.w.randsnap) (hd : d = { s.d with rand := d.rand, br := d.br }) :
    BeforeConceal s₀ ((s.setW w).setD d) := (h.setW hw).setD hd

theorem readingUop_beforeConceal {i : Instr} (hi : i ∈ readingUops) :
    Keeps (BeforeConceal s₀) (exec i) := by
  intro s t hs h
  cases i with
  | bsRinit => cases h; exact hs.setD rfl
  | pwrDec => obtain ⟨_, _, _, _, rfl⟩ := execPwrDec_next h; exact hs.setW_setD rfl rfl
  | vqDec => obtain ⟨_, _, _, _, rfl⟩ := execVqDec_next h; exact hs.setW_setD rfl rfl
  | noiseFill => obtain ⟨_, _, rfl⟩ := execNoiseFill_next h; exact hs.setW_setD rfl rfl
  | frameCheck => obtain ⟨_, _, rfl⟩ := execFrameCheck_next h; exact hs.setW_setD rfl rfl
  | sdShift | categorize | catReplay => cases h; exact hs.setW rfl
  | _ => simp [readingUops] at hi

theorem readingTurn_beforeConceal {i : Instr} (hi : i ∈ readingUops) :
    Keeps (BeforeConceal s₀) (turn i) :=
  fun _ t hs h => readingUop_beforeConceal hi _ t (hs.setPhase _) h

/-- Steps 3 to 8 of R376, part by part in their order. -/
theorem decodeBody_beforeConceal : Keeps (BeforeConceal s₀) decodeBody := by
  intro s t hs h
  rw [decodeBody_eq_middle s rfl] at h
  refine Keeps.runAll (fun m hm => ?_) s t hs h
  simp only [decodeFrameMiddle, List.mem_append, List.mem_flatMap, List.mem_cons, List.not_mem_nil,
    or_false] at hm
  have hturn (i : Instr) (hi : i ∈ readingUops) : Keeps (BeforeConceal s₀) (turn i) :=
    readingTurn_beforeConceal hi
  rcases hm with ((rfl | rfl | rfl | rfl) | ⟨r, -, rfl | rfl | rfl⟩) | rfl
  · exact hturn .sdShift (by simp [readingUops])
  · exact Keeps.act fun _ hu => hu.setW rfl
  · exact hturn .categorize (by simp [readingUops])
  · exact hturn .catReplay (by simp [readingUops])
  · exact Keeps.act fun _ hu => hu.setSeq rfl rfl
  · exact hturn .vqDec (by simp [readingUops])
  · exact hturn .noiseFill (by simp [readingUops])
  · exact hturn .frameCheck (by simp [readingUops])

/-- The start of a frame saves the generator (R376 step 0). -/
theorem beforeConceal_start (s : State) : BeforeConceal s (decodeFrameStart s) :=
  ⟨⟨rfl, ⟨_, rfl⟩, rfl, rfl⟩, rfl⟩

/-- A frame of `DECODE` comes to the sequence that begins with `CONCEAL`, its header exhausted or not. -/
theorem decodeFrame_next {s t : State} (h : decodeFrame s = .next t) :
    ∃ u, BeforeConceal s u ∧ concealTail u = .next t := by
  have hparts : decodeFrame = runAll ([act decodeFrameStart, turn .bsRinit, turn .pwrDec,
      fun s => if headerFailed s then .next s else decodeBody s] ++ [concealTail]) := rfl
  have hbody : Keeps (BeforeConceal s) fun u => if headerFailed u then .next u else decodeBody u := by
    intro u v hu hv
    dsimp only at hv
    split at hv
    · cases hv; exact hu
    · exact decodeBody_beforeConceal u v hu hv
  have hkeeps : Keeps (BeforeConceal s) (runAll [turn .bsRinit, turn .pwrDec,
      fun s => if headerFailed s then .next s else decodeBody s]) := by
    refine .runAll ?_
    simp only [List.forall_mem_cons, List.not_mem_nil, false_imp_iff, implies_true, and_true]
    exact ⟨readingTurn_beforeConceal (by simp [readingUops]),
      readingTurn_beforeConceal (by simp [readingUops]), hbody⟩
  rw [hparts, runAll_append] at h
  obtain ⟨u, hu, hend⟩ := thenDo_eq_next.mp h
  exact ⟨u, hkeeps _ u (beforeConceal_start s) hu, by rwa [runAll_cons, thenDo_runAll_nil] at hend⟩

end

/-! ## Two runs of the end of a bad frame -/

/-- From two states related by `Q`, two runs that answer end in states related by `R`. -/
def Both (Q R : State → State → Prop) (m : State → Result) : Prop :=
  ∀ s t s' t', Q s t → m s = .next s' → m t = .next t' → R s' t'

theorem Both.cons {Q R S : State → State → Prop} {m : State → Result} {ms : List (State → Result)}
    (hm : Both Q R m) (hms : Both R S (runAll ms)) : Both Q S (runAll (m :: ms)) := by
  intro s t s' t' hQ hs ht
  obtain ⟨u, hu, hs'⟩ := thenDo_eq_next.mp hs
  obtain ⟨v, hv, ht'⟩ := thenDo_eq_next.mp ht
  exact hms u v s' t' (hm s t u v hQ hu hv) hs' ht'

theorem Both.nil {Q : State → State → Prop} : Both Q Q (runAll []) := by
  intro s t s' t' hQ hs ht
  cases hs
  cases ht
  exact hQ

/-- The same decoder, and the same contents of these working registers in the part that the frame uses. -/
def Alike (l : List WorkReg) (s t : State) : Prop :=
  SameDecoder s t ∧ ∀ r ∈ l, r.Agrees s.d.mode s.build.backend s.w t.w

theorem alike_nil {s t : State} : Alike [] s t ↔ SameDecoder s t := by simp [Alike]

theorem alike_cons {r : WorkReg} {l : List WorkReg} {s t : State} :
    Alike (r :: l) s t ↔ r.Agrees s.d.mode s.build.backend s.w t.w ∧ Alike l s t := by
  simp only [Alike, List.forall_mem_cons]
  exact and_left_comm

/-- Both frames are bad, and the same but for what a bad frame does not read. -/
def BothBad (s t : State) : Prop :=
  SameDecoder (restored s) (restored t) ∧ s.w.ferr ≠ 0#4 ∧ t.w.ferr ≠ 0#4

theorem SameDecoder.setPhase {s t : State} (h : SameDecoder s t) (c : Byte) :
    SameDecoder (s.setPhase c) (t.setPhase c) := ⟨h.build, h.dec, h.pcm, h.frame⟩

theorem Alike.setPhase {l : List WorkReg} {s t : State} (h : Alike l s t) (c : Byte) :
    Alike l (s.setPhase c) (t.setPhase c) := ⟨h.1.setPhase c, h.2⟩

theorem BothBad.setPhase {s t : State} (h : BothBad s t) (c : Byte) :
    BothBad (s.setPhase c) (t.setPhase c) := ⟨h.1.setPhase c, h.2⟩

theorem Both.turn {Q R : State → State → Prop} {i : Instr}
    (hQ : ∀ {s t}, Q s t → ∀ c, Q (s.setPhase c) (t.setPhase c)) (h : Both Q R (exec i)) :
    Both Q R (turn i) := fun _ _ _ _ hst => h _ _ _ _ (hQ hst _)

/-- `CONCEAL` in a bad frame once the generator is back: the retained coefficients and shift, which are then
forgotten (R412, R413). -/
def substituted (s : State) : State :=
  (s.setW { s.w with
    coef := s.w.coef.put s.build.backend (concealCoef true s.d.mode 0#16 s.w.coef.fx s.d.oldcoef.fx)
      (concealCoef true s.d.mode (Config.fOfInt 0) s.w.coef.fl s.d.oldcoef.fl)
    magsh := s.d.oldshift }).setD
  { s.d with
    oldcoef := s.d.oldcoef.put s.build.backend (vfill s.d.oldcoef.fx s.d.mode.nv fun _ => 0#16)
      (vfill s.d.oldcoef.fl s.d.mode.nv fun _ => Config.fOfInt 0)
    oldshift := 0#16 }

theorem enterConceal_bad {s : State} (h : s.w.ferr ≠ 0#4) : enterConceal s = substituted (restored s) := by
  simp only [enterConceal, decide_eq_true h, if_true]
  rfl

/-- The coefficients that `CONCEAL` leaves in the block of a bad frame are not the frame's (R412). -/
theorem concealCoef_bad_agrees {α : Type} [Inhabited α] (m : Mode) (zero : α) (v u old : Vector α 640) :
    AgreeUpTo m.blk (concealCoef true m zero v old) (concealCoef true m zero u old) := by
  intro i hi
  rcases Nat.lt_or_ge i m.nv with hv | hv
  · rw [vget_concealCoef_coded hv, vget_concealCoef_coded hv, if_pos rfl, if_pos rfl]
  · rw [vget_concealCoef_uncoded hv hi, vget_concealCoef_uncoded hv hi]

theorem substituted_alike {s t : State} (h : SameDecoder s t) :
    Alike [.magsh, .coef] (substituted s) (substituted t) := by
  obtain ⟨hbuild, ⟨br, hd⟩, hpcm, hframe⟩ := h
  have hcoef : (substituted s).w.coef.AgreeUpTo s.build.backend s.d.mode.blk (substituted t).w.coef := by
    simp only [substituted, State.setD_w, State.setW_w, hd, hbuild]
    exact SigReg.agreeUpTo_put (fun _ => concealCoef_bad_agrees _ _ _ _ _)
      fun _ => concealCoef_bad_agrees _ _ _ _ _
  have hdec : (substituted t).d = { (substituted s).d with br := br } := by
    simp only [substituted, State.setD_d, hd, hbuild]
  simp only [alike_cons, alike_nil, WorkReg.Agrees]
  exact ⟨(congrArg Decoder.oldshift hd).symm, hcoef, hbuild, ⟨br, hdec⟩, hpcm, hframe⟩

theorem conceal_bothBad : Both BothBad (Alike [.magsh, .coef]) (exec .conceal) := by
  rintro s t _ _ ⟨hsame, hs, ht⟩ ⟨⟩ ⟨⟩
  rw [enterConceal_bad hs, enterConceal_bad ht]
  exact substituted_alike hsame

/-- `DCT4_INV` reads the block of `W.COEF` (R202). -/
theorem inverseNews_agrees {b : Backend} (rom : Rom) {m m' : Mode} (hm : m' = m) {w v : WorkRegs}
    (h : w.coef.AgreeUpTo b m.blk v.coef) :
    (w.news.put b (transformReg m (dctInvFixed rom m) w.coef.fx w.news.fx)
      (transformReg m (dctInvFloat rom m) w.coef.fl w.news.fl)).AgreeUpTo b m.blk
    (v.news.put b (transformReg m' (dctInvFixed rom m') v.coef.fx v.news.fx)
      (transformReg m' (dctInvFloat rom m') v.coef.fl v.news.fl)) := by
  subst hm
  exact SigReg.agreeUpTo_put (fun hb => agreeUpTo_transformReg _ _ _ _ (h.1 hb))
    fun hb => agreeUpTo_transformReg _ _ _ _ (h.2 hb)

theorem dct4Inv_alike : Both (Alike [.magsh, .coef]) (Alike [.magsh, .news]) (exec .dct4Inv) := by
  rintro s t _ _ h ⟨⟩ ⟨⟩
  simp only [alike_cons, alike_nil, WorkReg.Agrees] at h ⊢
  obtain ⟨hmag, hcoef, hbuild, ⟨br, hd⟩, hpcm, hframe⟩ := h
  refine ⟨hmag, ?_, hbuild, ⟨br, hd⟩, hpcm, hframe⟩
  rw [State.setW_w, State.setW_w, hbuild]
  exact inverseNews_agrees _ (congrArg Decoder.mode hd) hcoef

theorem winSyn_alike : Both (Alike [.magsh, .news]) (Alike [.out]) (exec .winSyn) := by
  rintro s t _ _ h ⟨⟩ ⟨⟩
  simp only [alike_cons, alike_nil, WorkReg.Agrees] at h ⊢
  obtain ⟨hmag, hnews, hbuild, ⟨br, hd⟩, hpcm, hframe⟩ := h
  have hunshift (hb : s.build.backend = .fixed) : ∀ i < s.d.mode.blk,
      unshifted s.w.magsh (vget t.w.news.fx) i = unshifted s.w.magsh (vget s.w.news.fx) i :=
    fun i hi => by rw [unshifted, unshifted, hnews.1 hb i hi]
  refine ⟨?_, hbuild, ⟨br, ?_⟩, hpcm, hframe⟩
  · simp only [State.setD_w, State.setW_w, hd, hbuild, ← hmag]
    exact SigReg.agreeUpTo_put
      (fun hb => agreeUpTo_vfill (blk_le _) _ _ fun p hp =>
        (overlapFixed_congr (hunshift hb) hp).symm)
      fun hb => agreeUpTo_vfill (blk_le _) _ _ fun p hp => overlapFloat_congr (hnews.2 hb) hp
  · simp only [State.setD_d, hd, hbuild, ← hmag]
    refine congrArg (fun o => ({ s.d with oldsamp := o, br := br } : Decoder)) ?_
    exact SigReg.put_congr _ (fun hb => vfill_congr _ _ fun k hk => hunshift hb _ (by omega))
      fun hb => vfill_congr _ _ fun k hk => (hnews.2 hb _ (by omega)).symm

theorem outSamples_alike {s t : State} (hbuild : t.build = s.build)
    (h : s.w.out.AgreeUpTo s.build.backend s.d.mode.blk t.w.out) :
    outSamples t s.d.mode.blk = outSamples s s.d.mode.blk := by
  refine List.map_congr_left fun i hi => ?_
  have hi := List.mem_range.mp hi
  rw [hbuild]
  cases hb : s.build.backend with
  | fixed => exact (h.1 hb i hi).symm
  | float => exact congrArg sampleOfFloat (h.2 hb i hi).symm

theorem storePcm_alike : Both (Alike [.out]) SameDecoder (exec .storePcm) := by
  intro s t s' t' h hs ht
  obtain ⟨-, rfl⟩ := execStorePcm_next hs
  obtain ⟨-, rfl⟩ := execStorePcm_next ht
  simp only [alike_cons, alike_nil, WorkReg.Agrees] at h
  obtain ⟨hout, hbuild, ⟨br, hd⟩, hpcm, hframe⟩ := h
  have hmode : t.d.mode = s.d.mode := by rw [hd]
  exact ⟨hbuild, ⟨br, hd⟩, by rw [State.setPcm_pcm, State.setPcm_pcm, hframe, hpcm, hmode,
    outSamples_alike hbuild hout], hframe⟩

/-- The end of a bad frame (R376 steps 9 to 13) makes the same of the same history. -/
theorem concealTail_bothBad : Both BothBad SameDecoder concealTail :=
  .cons (.turn (fun h => h.setPhase) conceal_bothBad) <|
  .cons (.turn (fun h => h.setPhase) dct4Inv_alike) <|
  .cons (.turn (fun h => h.setPhase) winSyn_alike) <|
  .cons (.turn (fun h => h.setPhase) storePcm_alike) <|
  .cons (m := act frameEnd) (R := SameDecoder) (fun s t s' t' h hs ht => by
    cases hs; cases ht; exact ⟨h.build, h.dec, h.pcm, h.frame⟩) .nil


/-! ## The record counts the bad frames (R411) -/

/-- The end of a frame counts it where a flag is set. -/
theorem concealTail_nconc {s t : State} (h : concealTail s = .next t) :
    t.seq.nconc = (recordFrame s.w.ferr s.seq).nconc := by
  obtain ⟨u, hu, rfl⟩ := concealTail_next h
  have hkeeps : Keeps (fun v => v.w.ferr = s.w.ferr ∧ v.seq.nconc = s.seq.nconc)
      (runAll (concealUops.map turn)) := by
    refine .runAll (List.forall_mem_map.mpr fun i hi => ?_)
    intro v v' ⟨hferr, hnconc⟩ hv
    cases i with
    | storePcm => obtain ⟨-, rfl⟩ := execStorePcm_next hv; exact ⟨hferr, hnconc⟩
    | conceal | dct4Inv | winSyn => cases hv; exact ⟨hferr, hnconc⟩
    | _ => simp [concealUops] at hi
  obtain ⟨hferr, hnconc⟩ := hkeeps s u ⟨rfl, rfl⟩ hu
  simp only [frameEnd_seq, recordFrame, hferr, hnconc]

/-- A frame adds at most one to the count, and one only if it is bad. -/
theorem recordFrame_nconc (ferr : BitVec 4) (q : SeqRegs) :
    (recordFrame ferr q).nconc.toNat ≤ q.nconc.toNat + 1 ∧
      ((recordFrame ferr q).nconc.toNat = q.nconc.toNat + 1 → ferr ≠ 0#4) := by
  simp only [recordFrame]
  split
  next hbad => exact ⟨by rw [BitVec.toNat_ofNat]; omega, fun _ => hbad⟩
  next => exact ⟨by omega, fun h => by omega⟩

theorem decodeFrame_nconc {s t : State} (h : decodeFrame s = .next t) :
    t.seq.nconc.toNat ≤ s.seq.nconc.toNat + 1 ∧
      (t.seq.nconc.toNat = s.seq.nconc.toNat + 1 →
        ∃ u, BeforeConceal s u ∧ u.w.ferr ≠ 0#4 ∧ concealTail u = .next t) := by
  obtain ⟨u, hu, hend⟩ := decodeFrame_next h
  obtain ⟨hle, hbad⟩ := recordFrame_nconc u.w.ferr u.seq
  rw [← concealTail_nconc hend, hu.nconc] at hle hbad
  exact ⟨hle, fun hcount => ⟨u, hu, hbad hcount, hend⟩⟩

theorem decodeFrames_nconc_le (k f : Nat) {s t : State} (h : frameLoop decodeFrame k f s = .next t) :
    t.seq.nconc.toNat ≤ s.seq.nconc.toNat + k := by
  induction k generalizing f s with
  | zero => cases h; exact Nat.le_refl _
  | succ k ih =>
    obtain ⟨u, hu, hrest⟩ := thenDo_eq_next.mp h
    obtain ⟨(hfirst : u.seq.nconc.toNat ≤ s.seq.nconc.toNat + 1), -⟩ := decodeFrame_nconc hu
    have hlater := ih (f + 1) hrest
    omega

/-! ## The frames of the two commands -/

theorem SameDecoder.setFrame {s t : State} (h : SameDecoder s t) (f : Nat) :
    SameDecoder (s.setFrame f) (t.setFrame f) := ⟨h.build, h.dec, h.pcm, rfl⟩

/-- Two bad frames from the same history make the same of it. -/
theorem decodeFrame_sameDecoder {s t s' t' : State} (h : SameDecoder s t)
    (hs : decodeFrame s = .next s') (ht : decodeFrame t = .next t')
    (hcs : s'.seq.nconc.toNat = s.seq.nconc.toNat + 1) (hct : t'.seq.nconc.toNat = t.seq.nconc.toNat + 1) :
    SameDecoder s' t' := by
  obtain ⟨-, hbads⟩ := decodeFrame_nconc hs
  obtain ⟨-, hbadt⟩ := decodeFrame_nconc ht
  obtain ⟨u, hu, hubad, hs'⟩ := hbads hcs
  obtain ⟨v, hv, hvbad, ht'⟩ := hbadt hct
  exact concealTail_bothBad u v s' t' ⟨(hu.same.symm.trans h).trans hv.same, hubad, hvbad⟩ hs' ht'

/-- A loop that counts all its frames counts its first and all the later ones. -/
theorem decodeFrames_count {k f : Nat} {s t u : State} (hu : decodeFrame (s.setFrame f) = .next u)
    (hrest : frameLoop decodeFrame k (f + 1) u = .next t)
    (hcount : t.seq.nconc.toNat = s.seq.nconc.toNat + (k + 1)) :
    u.seq.nconc.toNat = s.seq.nconc.toNat + 1 ∧ t.seq.nconc.toNat = u.seq.nconc.toNat + k := by
  obtain ⟨(hfirst : u.seq.nconc.toNat ≤ s.seq.nconc.toNat + 1), -⟩ := decodeFrame_nconc hu
  have hlater := decodeFrames_nconc_le k (f + 1) hrest
  omega

theorem decodeFrames_sameDecoder (k f : Nat) {s t s' t' : State} (h : SameDecoder s t)
    (hs : frameLoop decodeFrame k f s = .next s') (ht : frameLoop decodeFrame k f t = .next t')
    (hcs : s'.seq.nconc.toNat = s.seq.nconc.toNat + k) (hct : t'.seq.nconc.toNat = t.seq.nconc.toNat + k) :
    SameDecoder s' t' := by
  induction k generalizing f s t with
  | zero => cases hs; cases ht; exact h
  | succ k ih =>
    obtain ⟨u, hu, hs'⟩ := thenDo_eq_next.mp hs
    obtain ⟨v, hv, ht'⟩ := thenDo_eq_next.mp ht
    obtain ⟨hcu, hcs'⟩ := decodeFrames_count hu hs' hcs
    obtain ⟨hcv, hct'⟩ := decodeFrames_count hv ht' hct
    exact ih (f + 1) (decodeFrame_sameDecoder (h.setFrame f) hu hv hcu hcv) hs' ht' hcs' hct'

/-! ## The commands -/

/-- A `DECODE` that passes its checks and answers has run its frames from a cleared record, and `NCONC` of
`ERRINFO` is their count (R375, R411). -/
theorem exec_decode_frames {s t : State} (hv : s.d.valid = true)
    (hn : nframesOf (.decode .dec) s ≤ s.build.maxFrames) (h : exec (.decode .dec) s = .next t) :
    ∃ u, frameLoop decodeFrame (nframesOf (.decode .dec) s) 0
        (clearRecord (beginCommand (wordOf (.decode .dec)) (nframesOf (.decode .dec) s) s)) = .next u ∧
      t.d = u.d ∧ t.pcm = u.pcm ∧ (t.errInfo.extractLsb' 16 16).toNat = u.seq.nconc.toNat := by
  have hpass := runCommand_pass (i := .decode .dec) (s := s) rfl rfl (fun side h => by cases h; exact hv)
    rfl hn decodeCommandBody
  obtain ⟨u, hu, hend⟩ := thenDo_eq_next.mp (hpass.symm.trans h)
  cases hend
  refine ⟨u, hu, rfl, rfl, ?_⟩
  show ((errInfoWord u.seq).extractLsb' 16 16).toNat = u.seq.nconc.toNat
  have horf : u.seq.orf.toNat < 2 ^ 4 := u.seq.orf.isLt
  have hlast : u.seq.last.toNat < 2 ^ 4 := u.seq.last.isLt
  have hnconc : u.seq.nconc.toNat < 2 ^ 16 := u.seq.nconc.isLt
  rw [BitVec.extractLsb'_toNat, errInfoWord_toNat, Nat.shiftRight_eq_div_pow]
  omega

/-- Settles O22: where every frame is counted every frame is bad, and each bad frame of the two commands makes
the same of the same history. -/
theorem badFramesLeaveNoTraceOfTheirBytes : Obligations.BadFramesLeaveNoTraceOfTheirBytes := by
  intro s t u m ht hu hv hn _ hct hcu
  obtain ⟨t', ht', htd, htpcm, htn⟩ := exec_decode_frames hv hn ht
  obtain ⟨u', hu', hud, hupcm, hun⟩ := exec_decode_frames (s := s.setBs m) hv hn hu
  have hstart (k : Nat) : SameDecoder (clearRecord (beginCommand (wordOf (.decode .dec)) k s))
      (clearRecord (beginCommand (wordOf (.decode .dec)) k (s.setBs m))) := ⟨rfl, ⟨_, rfl⟩, rfl, rfl⟩
  have hzero (c : Word) (k : Nat) (v : State) : (clearRecord (beginCommand c k v)).seq.nconc.toNat = 0 := rfl
  obtain ⟨-, ⟨br, hd⟩, hpcm, -⟩ := decodeFrames_sameDecoder _ 0 (hstart _) ht' hu'
    (by rw [hzero, Nat.zero_add, ← htn, hct]) (by rw [hzero, Nat.zero_add, ← hun]; exact hcu)
  rw [htd, hud, htpcm, hupcm, hd, hpcm]
  exact ⟨rfl, rfl⟩

end Sys2Proof.Machine
end
